-- ==== Sys2Proof/Word.lean ====
section
/-! DEFINITION. The word and byte types of the register space (spec 00_scope.md R7, R8). -/

namespace Sys2Proof

/-- A 32-bit register, command word or data word (R7, R100). Bit 0 is the least significant (R8). -/
abbrev Word := BitVec 32

/-- An 8-bit cell: an NVIC priority cell, a FIFO byte, an event label (R7, R40, R100). -/
abbrev Byte := BitVec 8

end Sys2Proof
end

