-- ==== Sys2Proof/Syntax.lean ====
section
/-! DEFINITION. The operations of the block: the 39 admitted bus operations and the 12 agent and
environment steps, one constructor per row of spec/opcode_table.json (30_encoding.md R104, R107),
the block codes and access widths their encodings name (R100, R101), and the registers a layout places
(00_scope.md R6). -/

namespace Sys2Proof

/-- The five windows of the register space, block codes 0 to 4 (R70, R101). -/
inductive Blk where
  | usart
  | i2c
  | spi
  | nvicIser
  | nvicIpr
deriving DecidableEq, Repr

/-- The access widths of field SZ: 1, 2 or 4 bytes (R100). -/
inductive Width where
  | w8
  | w16
  | w32
deriving DecidableEq, Repr

/-- The registers that a layout gives an offset and bit positions (R6, 10_state.md R22 to R39). The two NVIC
arrays are reached by an index instead (R102). -/
inductive Reg where
  | usartCr1
  | usartCr2
  | usartBrr
  | usartRtor
  | usartIsr
  | usartIcr
  | usartRdr
  | usartTdr
  | i2cCr1
  | i2cCr2
  | i2cTimingr
  | i2cIsr
  | i2cIcr
  | i2cRxdr
  | i2cTxdr
  | spiCr1
  | spiCr2
  | spiSr
  | spiDr
deriving DecidableEq, Repr

/-- One operation. `rd…` and `wr…` are issued by HOST over the bus; `ev…` is a step of another
agent or of the environment (R10, R100). A write carries its data word as it stands on the bus; an
event carries the environment's draws as operands (R107). -/
inductive Instr where
  -- USART bus operations (41_usart.md R170 to R184)
  | rdUsartCr1
  | wrUsartCr1 (v : Word)
  | rdUsartCr2
  | wrUsartCr2 (v : Word)
  | rdUsartBrr
  | wrUsartBrr (v : Word)
  | rdUsartRtor
  | wrUsartRtor (v : Word)
  | rdUsartIsr
  | rdUsartIcr
  | wrUsartIcr (v : Word)
  | rdUsartRdr
  | rdUsartTdr
  | wrUsartTdr (v : Word)
  -- I2C bus operations (42_i2c.md R220 to R231)
  | rdI2cCr1
  | wrI2cCr1 (v : Word)
  | rdI2cCr2
  | wrI2cCr2 (v : Word)
  | rdI2cTimingr
  | wrI2cTimingr (v : Word)
  | rdI2cIsr
  | rdI2cIcr
  | wrI2cIcr (v : Word)
  | rdI2cRxdr
  | rdI2cTxdr
  | wrI2cTxdr (v : Word)
  -- SPI bus operations (43_spi.md R254 to R256, R270 to R273)
  | rdSpiCr1
  | wrSpiCr1 (v : Word)
  | rdSpiCr2
  | wrSpiCr2 (v : Word)
  | rdSpiSr
  | rd8SpiDr
  | rd16SpiDr
  | wr8SpiDr (v : Byte)
  | wr16SpiDr (v : BitVec 16)
  -- NVIC bus operations (44_nvic.md R302 to R305); the index is the encoded field (R102)
  | rdNvicIser (r : BitVec 4)
  | wrNvicIser (r : BitVec 4) (v : Word)
  | rdNvicIpr (n : BitVec 9)
  | wrNvicIpr (n : BitVec 9) (v : Byte)
  -- steps of the other agents and of the environment (R107)
  | evUsartClk
  | evUsartTick (rxPin : Bool)
  | evI2cStart
  | evI2cAddr (ack lost : Bool)
  | evI2cTxByte (ack lost : Bool)
  | evI2cRxByte (data : Byte)
  | evI2cStop
  | evI2cBusFree
  | evSpiLoad
  | evSpiBit (miso : Bool)
  | evSpiModf (nssIn : Bool)
  | evNvicPend (n : BitVec 9) (level : Bool)
deriving DecidableEq, Repr

end Sys2Proof
end

