-- ==== Sys2Proof/Config.lean ====
section
/-! DEFINITION. What an implementation fixes (00_scope.md R6) and the values the spec leaves open. The
parameters that have a default are an argument of the model (`Params`; log entry 2). A parameter without
one, and every free value, is an opaque constant: no proof can see its value. -/

namespace Sys2Proof

/-! ### The parameters that have a default (R6) -/

/-- Where a register stands in its window, and at which bit of the bus word each of its defined bits
stands: `pos[k]` is the place of the k-th defined bit (Sys2Proof.Reg.bits). -/
structure RegLayout where
  off : BitVec 12
  pos : List Nat
deriving DecidableEq, Repr

/-- `LAYOUT`: the table register name to (byte offset, bit positions) (R6). -/
structure Layout where
  usartCr1 : RegLayout
  usartCr2 : RegLayout
  usartBrr : RegLayout
  usartRtor : RegLayout
  usartIsr : RegLayout
  usartIcr : RegLayout
  usartRdr : RegLayout
  usartTdr : RegLayout
  i2cCr1 : RegLayout
  i2cCr2 : RegLayout
  i2cTimingr : RegLayout
  i2cIsr : RegLayout
  i2cIcr : RegLayout
  i2cRxdr : RegLayout
  i2cTxdr : RegLayout
  spiCr1 : RegLayout
  spiCr2 : RegLayout
  spiSr : RegLayout
  spiDr : RegLayout
deriving DecidableEq, Repr

/-- The parameters of R6 that have a default: `N_LINES`, `N_ISER`, `PRIO_BITS`, `P_SHIFT`, `SUB_MASK`,
`LAYOUT`. -/
structure Params where
  nLines : Nat
  nIser : Nat
  prioBits : Nat
  pShift : Nat
  subMask : Byte
  layout : Layout
deriving DecidableEq, Repr

namespace Config

/-! ### The parameters that have none (R6) -/

/-- `BASE[blk]`, open (R6, R84). No operation reads it; the address decode takes it as an argument. -/
opaque base : Blk → Word

/-- `F_USART_HZ`, open (R6). -/
opaque fUsartHz : Nat

/-- `F_I2C_HZ`, open (R6). -/
opaque fI2cHz : Nat

/-- `F_SPI_HZ`, open (R6). -/
opaque fSpiHz : Nat

/-- `FT_BOUND` less one, open: the bound must be at least 1 (R6, R138). -/
opaque ftBoundLessOne : Nat

/-- `FT_BOUND`: the fault-timer iteration bound of the reference sequences (R6). -/
def ftBound : Nat := ftBoundLessOne + 1

/-- `RTO_WINDOW`: what the reference `open` writes to RTOR, open (R6, R186). -/
opaque rtoWindow : BitVec 24

/-- `I2C_TIMING_TABLE`: (input clock, mode) to a TIMINGR value, open (R6, R233). -/
opaque i2cTimingTable : Nat → Nat → Option Word

/-- `I2C_TIMING_DEFAULT`: the fallback TIMINGR value, open (R6, R233). -/
opaque i2cTimingDefault : Word

/-- Two open numbers, from which the sentinels are made. -/
opaque errIdleCode : Nat
opaque errLineCode : Nat

/-- `ERR_IDLE`, open but negative (R6, R188). -/
def errIdle : Int := -(errIdleCode + 1 : Int)

/-- `ERR_LINE`, open but negative and distinct from `ERR_IDLE` (R6, R188). -/
def errLine : Int :=
  if errLineCode < errIdleCode then -(errLineCode + 1 : Int) else -(errLineCode + 2 : Int)

/-! ### Free values -/

/-- FREE VALUE: the level of `rx_pin` that the environment draws at the n-th tick the baud-rate
generator makes (R46, R152: `draw(bit)`). Log entry 6. -/
opaque rxDraw : Nat → Bool

/-- FREE VALUE: the level of `I2C.scl` between two steps while the master is clocking (R204).
Log entry 7. -/
opaque sclClocking : Nat → Bool

/-- FREE VALUE: which byte of an address phase was not acknowledged, counted from 0 (R210). Log entry 9. -/
opaque refusedByte : Nat → Nat

/-- FREE VALUE: how much of what a step sends stood on the bus when arbitration was lost (R210, R212). Log
entry 9. -/
opaque sentBeforeLoss : Nat → Nat

/-- FREE VALUE: `NVIC.irq_line` when no line is a candidate (R306). Log entry 8. -/
opaque idleIrqLine : Nat → BitVec 9

/-- What of the USART's transmitter is not specified once it has been stopped inside a frame (R9, R170). The
numbers are cut to their widths where they are used. -/
structure TornTx where
  state : Fin 4
  tsr : BitVec 9
  bit : Nat
  stop : Nat
  osc : Nat
  txPin : Bool
  txe : Bool
  tc : Bool
deriving DecidableEq, Repr, Inhabited

/-- FREE VALUE: the transmitter from such a stop on. Log entry 14. -/
opaque tornTx : Nat → TornTx

/-- What of the SPI is not specified once it has been disabled with a frame or bytes under way (R9, R274): the
frame on the wire and the bytes left. -/
structure TornFrame where
  busy : Bool
  tx : BitVec 16
  rx : BitVec 16
  cnt : Nat
  mosi : Bool
  left : List Byte
deriving DecidableEq, Repr, Inhabited

/-- FREE VALUE: the frame and the bytes after such a write. Log entry 14. -/
opaque tornFrame : Nat → TornFrame

end Config

end Sys2Proof
end

