-- ==== Sys2Proof/WellFormed.lean ====
section
/-! DEFINITION. Which operations are operations of the block: an NVIC index names an implemented
register, cell or line (30_encoding.md R102, 44_nvic.md R307, R308). Every other operand is
admitted at every value its width holds; what a reserved bit or field value does is the meaning's. -/

namespace Sys2Proof

/-- The index checks of R102: `r < N_ISER`, `n < N_LINES`. -/
def Instr.wf (p : Params) : Instr → Bool
  | .rdNvicIser r | .wrNvicIser r _ => decide (r.toNat < p.nIser)
  | .rdNvicIpr n | .wrNvicIpr n _ => decide (n.toNat < p.nLines)
  | .evNvicPend n _ => decide (n.toNat < p.nLines)
  | .rdUsartCr1 | .wrUsartCr1 _ | .rdUsartCr2 | .wrUsartCr2 _ | .rdUsartBrr | .wrUsartBrr _
  | .rdUsartRtor | .wrUsartRtor _ | .rdUsartIsr | .rdUsartIcr | .wrUsartIcr _ | .rdUsartRdr
  | .rdUsartTdr | .wrUsartTdr _ => true
  | .rdI2cCr1 | .wrI2cCr1 _ | .rdI2cCr2 | .wrI2cCr2 _ | .rdI2cTimingr | .wrI2cTimingr _ | .rdI2cIsr
  | .rdI2cIcr | .wrI2cIcr _ | .rdI2cRxdr | .rdI2cTxdr | .wrI2cTxdr _ => true
  | .rdSpiCr1 | .wrSpiCr1 _ | .rdSpiCr2 | .wrSpiCr2 _ | .rdSpiSr | .rd8SpiDr | .rd16SpiDr
  | .wr8SpiDr _ | .wr16SpiDr _ => true
  | .evUsartClk | .evUsartTick _ => true
  | .evI2cStart | .evI2cAddr _ _ | .evI2cTxByte _ _ | .evI2cRxByte _ | .evI2cStop
  | .evI2cBusFree => true
  | .evSpiLoad | .evSpiBit _ | .evSpiModf _ => true

end Sys2Proof
end

