-- ==== Sys2Proof/Decode.lean ====
section
/-! DEFINITION. The layout (00_scope.md R6, 10_state.md R20) and decoding under it (30_encoding.md R100 to
R108): the command word and its row table, the refused encodings by class, the event labels, the encoder, and
the address form of a command (20_memory.md R71). The HOST's operation stream is a list of 32-bit words; an
event is a label byte and its operand bytes, never mixed into the HOST's stream (R108). -/

namespace Sys2Proof

/-- Why the decoder rejects. The first seven are `refuse` reasons of R106; the last three are the
model's own, for an encoding that is no operation at all (log entry 5). -/
inductive Reject where
  | badCommand
  | outsideBlock
  | writeToReadOnly
  | width
  | misaligned
  | unmappedOffset
  | indexOutOfRange
  | truncated
  | unknownEvent
  | badOperand
deriving DecidableEq, Repr

/-! ### The command word (R100, R101) -/

/-- Field WE: 1 for a write. -/
def cmdWe (cmd : Word) : Bool := cmd.getLsbD 31

/-- Field SZ. -/
def cmdSz (cmd : Word) : BitVec 2 := cmd.extractLsb' 29 2

/-- Field ZERO, which must be 0. -/
def cmdZero (cmd : Word) : BitVec 13 := cmd.extractLsb' 16 13

/-- Field BLK, the block code. -/
def cmdBlk (cmd : Word) : BitVec 4 := cmd.extractLsb' 12 4

/-- Field OFF, the byte offset inside the window. -/
def cmdOff (cmd : Word) : BitVec 12 := cmd.extractLsb' 0 12

/-- The access width in bytes that SZ names (0b11 is reserved). -/
def szBytes (sz : BitVec 2) : Nat := 2 ^ sz.toNat

/-- R100, R105 (5): only the low `8 * width` bits of a data word may be set. -/
def dataFits (sz : BitVec 2) (wdata : Word) : Bool := decide (wdata.toNat < 2 ^ (8 * szBytes sz))

/-! ### The layout: which bits a register defines, and where they stand (R6, R20) -/

/-- Bits `lo` to `hi`. -/
def bitsFrom (lo hi : Nat) : List Nat := (List.range (hi + 1 - lo)).map (· + lo)

/-- The defined bits of a register, named by their places in 10_state.md R22 to R38; every other bit is
reserved (R20). SPI.DR has none of its own: its bits are FIFO bytes (R39). -/
def Reg.bits : Reg → List Nat
  | .usartCr1 => [0, 2, 3, 12, 15, 28]
  | .usartCr2 => [12, 13, 23]
  | .usartBrr => bitsFrom 0 15
  | .usartRtor => bitsFrom 0 23
  | .usartIsr => [1, 3, 4, 5, 6, 7, 11]
  | .usartIcr => [1, 3, 4, 6, 11]
  | .usartRdr => bitsFrom 0 8
  | .usartTdr => bitsFrom 0 8
  | .i2cCr1 => [0]
  | .i2cCr2 => bitsFrom 0 14 ++ bitsFrom 16 25
  | .i2cTimingr => bitsFrom 0 23 ++ bitsFrom 28 31
  | .i2cIsr => [0, 1, 2, 4, 5, 6, 9, 15]
  | .i2cIcr => [4, 5, 9]
  | .i2cRxdr => bitsFrom 0 7
  | .i2cTxdr => bitsFrom 0 7
  | .spiCr1 => bitsFrom 0 9 ++ [11, 12, 13]
  | .spiCr2 => bitsFrom 8 12
  | .spiSr => [0, 1] ++ bitsFrom 4 7 ++ bitsFrom 9 12
  | .spiDr => []

/-- The window a register stands in. -/
def Reg.blk : Reg → Blk
  | .usartCr1 | .usartCr2 | .usartBrr | .usartRtor | .usartIsr | .usartIcr | .usartRdr | .usartTdr => .usart
  | .i2cCr1 | .i2cCr2 | .i2cTimingr | .i2cIsr | .i2cIcr | .i2cRxdr | .i2cTxdr => .i2c
  | .spiCr1 | .spiCr2 | .spiSr | .spiDr => .spi

/-- The admitted widths in bytes (R74). -/
def Reg.widths : Reg → List Nat
  | .spiDr => [1, 2]
  | .usartCr1 | .usartCr2 | .usartBrr | .usartRtor | .usartIsr | .usartIcr | .usartRdr | .usartTdr
  | .i2cCr1 | .i2cCr2 | .i2cTimingr | .i2cIsr | .i2cIcr | .i2cRxdr | .i2cTxdr
  | .spiCr1 | .spiCr2 | .spiSr => [4]

/-- The read-only registers (R21). -/
def Reg.readOnly : Reg → Bool
  | .usartIsr | .usartRdr | .i2cIsr | .i2cRxdr | .spiSr => true
  | .usartCr1 | .usartCr2 | .usartBrr | .usartRtor | .usartIcr | .usartTdr | .i2cCr1 | .i2cCr2 | .i2cTimingr
  | .i2cIcr | .i2cTxdr | .spiCr1 | .spiCr2 | .spiDr => false

/-- Every register. -/
def Reg.all : List Reg :=
  [ .usartCr1, .usartCr2, .usartBrr, .usartRtor, .usartIsr, .usartIcr, .usartRdr, .usartTdr,
    .i2cCr1, .i2cCr2, .i2cTimingr, .i2cIsr, .i2cIcr, .i2cRxdr, .i2cTxdr, .spiCr1, .spiCr2, .spiSr, .spiDr ]

/-- The entry of a register. -/
def Layout.of (l : Layout) : Reg → RegLayout
  | .usartCr1 => l.usartCr1
  | .usartCr2 => l.usartCr2
  | .usartBrr => l.usartBrr
  | .usartRtor => l.usartRtor
  | .usartIsr => l.usartIsr
  | .usartIcr => l.usartIcr
  | .usartRdr => l.usartRdr
  | .usartTdr => l.usartTdr
  | .i2cCr1 => l.i2cCr1
  | .i2cCr2 => l.i2cCr2
  | .i2cTimingr => l.i2cTimingr
  | .i2cIsr => l.i2cIsr
  | .i2cIcr => l.i2cIcr
  | .i2cRxdr => l.i2cRxdr
  | .i2cTxdr => l.i2cTxdr
  | .spiCr1 => l.spiCr1
  | .spiCr2 => l.spiCr2
  | .spiSr => l.spiSr
  | .spiDr => l.spiDr

/-- The layout of 10_state.md: the offsets of R22 to R39, every bit where the rule has it. -/
def Layout.default : Layout :=
  { usartCr1 := ⟨0x000#12, Reg.bits .usartCr1⟩
    usartCr2 := ⟨0x004#12, Reg.bits .usartCr2⟩
    usartBrr := ⟨0x00C#12, Reg.bits .usartBrr⟩
    usartRtor := ⟨0x014#12, Reg.bits .usartRtor⟩
    usartIsr := ⟨0x01C#12, Reg.bits .usartIsr⟩
    usartIcr := ⟨0x020#12, Reg.bits .usartIcr⟩
    usartRdr := ⟨0x024#12, Reg.bits .usartRdr⟩
    usartTdr := ⟨0x028#12, Reg.bits .usartTdr⟩
    i2cCr1 := ⟨0x000#12, Reg.bits .i2cCr1⟩
    i2cCr2 := ⟨0x004#12, Reg.bits .i2cCr2⟩
    i2cTimingr := ⟨0x010#12, Reg.bits .i2cTimingr⟩
    i2cIsr := ⟨0x018#12, Reg.bits .i2cIsr⟩
    i2cIcr := ⟨0x01C#12, Reg.bits .i2cIcr⟩
    i2cRxdr := ⟨0x024#12, Reg.bits .i2cRxdr⟩
    i2cTxdr := ⟨0x028#12, Reg.bits .i2cTxdr⟩
    spiCr1 := ⟨0x000#12, Reg.bits .spiCr1⟩
    spiCr2 := ⟨0x004#12, Reg.bits .spiCr2⟩
    spiSr := ⟨0x008#12, Reg.bits .spiSr⟩
    spiDr := ⟨0x00C#12, Reg.bits .spiDr⟩ }

/-- The defaults of R6. -/
def Params.default : Params :=
  { nLines := 480, nIser := 15, prioBits := 3, pShift := 4, subMask := 0x0F#8, layout := .default }

/-- A value with one bit. -/
def bitWord (i : Nat) (b : Bool) : Word := (BitVec.ofBool b).setWidth 32 <<< i

/-- The word with exactly these bits. -/
def bitsMask : List Nat → Word
  | [] => 0#32
  | j :: js => bitWord j true ||| bitsMask js

/-- The word whose bit `dst[k]` is bit `src[k]` of `w`, and that has no other. -/
def moveBits (src dst : List Nat) (w : Word) : Word :=
  match src, dst with
  | a :: src, b :: dst => bitWord b (w.getLsbD a) ||| moveBits src dst w
  | _, _ => 0#32

/-- A register's value as it stands on the bus under a layout; reserved bits read as 0 (R20). -/
def toBus (l : Layout) (r : Reg) (w : Word) : Word := moveBits r.bits (l.of r).pos w

/-- A bus word as the register's value: what 10_state.md calls bit `j` stands at bit `j`. -/
def fromBus (l : Layout) (r : Reg) (v : Word) : Word := moveBits (l.of r).pos r.bits v

/-! ### The row table of R104 -/

/-- The block code of R101. -/
def Blk.code : Blk → BitVec 4
  | .usart => 0#4
  | .i2c => 1#4
  | .spi => 2#4
  | .nvicIser => 3#4
  | .nvicIpr => 4#4

/-- The SZ code of R100. -/
def Width.code : Width → BitVec 2
  | .w8 => 0b00#2
  | .w16 => 0b01#2
  | .w32 => 0b10#2

/-- A command word, assembled from the fields of R100. -/
def command (we : Bool) (sz : Width) (blk : Blk) (off : BitVec 12) : Word :=
  BitVec.ofBool we ++ sz.code ++ 0#13 ++ blk.code ++ off

/-- A row: a command word matches when `cmd &&& mask = pattern`; `build` makes the operation of the
command word and the data word. -/
structure BusRow where
  mask : Word
  pattern : Word
  build : Word → Word → Instr

/-- The row of a read, which fixes the whole command word. -/
def BusRow.read (sz : Width) (blk : Blk) (off : BitVec 12) (i : Instr) : BusRow :=
  ⟨0xFFFFFFFF#32, command false sz blk off, fun _ _ => i⟩

/-- The row of a write. -/
def BusRow.write (sz : Width) (blk : Blk) (off : BitVec 12) (build : Word → Instr) : BusRow :=
  ⟨0xFFFFFFFF#32, command true sz blk off, fun _ wdata => build wdata⟩

/-- R102 (b): the enable register's index. -/
def iserField (cmd : Word) : BitVec 4 := cmd.extractLsb' 2 4

/-- R102 (c): the interrupt line's index. -/
def iprField (cmd : Word) : BitVec 9 := cmd.extractLsb' 0 9

def usartRows (l : Layout) : List BusRow :=
  [ .read .w32 .usart l.usartCr1.off .rdUsartCr1,
    .write .w32 .usart l.usartCr1.off .wrUsartCr1,
    .read .w32 .usart l.usartCr2.off .rdUsartCr2,
    .write .w32 .usart l.usartCr2.off .wrUsartCr2,
    .read .w32 .usart l.usartBrr.off .rdUsartBrr,
    .write .w32 .usart l.usartBrr.off .wrUsartBrr,
    .read .w32 .usart l.usartRtor.off .rdUsartRtor,
    .write .w32 .usart l.usartRtor.off .wrUsartRtor,
    .read .w32 .usart l.usartIsr.off .rdUsartIsr,
    .read .w32 .usart l.usartIcr.off .rdUsartIcr,
    .write .w32 .usart l.usartIcr.off .wrUsartIcr,
    .read .w32 .usart l.usartRdr.off .rdUsartRdr,
    .read .w32 .usart l.usartTdr.off .rdUsartTdr,
    .write .w32 .usart l.usartTdr.off .wrUsartTdr ]

def i2cRows (l : Layout) : List BusRow :=
  [ .read .w32 .i2c l.i2cCr1.off .rdI2cCr1,
    .write .w32 .i2c l.i2cCr1.off .wrI2cCr1,
    .read .w32 .i2c l.i2cCr2.off .rdI2cCr2,
    .write .w32 .i2c l.i2cCr2.off .wrI2cCr2,
    .read .w32 .i2c l.i2cTimingr.off .rdI2cTimingr,
    .write .w32 .i2c l.i2cTimingr.off .wrI2cTimingr,
    .read .w32 .i2c l.i2cIsr.off .rdI2cIsr,
    .read .w32 .i2c l.i2cIcr.off .rdI2cIcr,
    .write .w32 .i2c l.i2cIcr.off .wrI2cIcr,
    .read .w32 .i2c l.i2cRxdr.off .rdI2cRxdr,
    .read .w32 .i2c l.i2cTxdr.off .rdI2cTxdr,
    .write .w32 .i2c l.i2cTxdr.off .wrI2cTxdr ]

def spiRows (l : Layout) : List BusRow :=
  [ .read .w32 .spi l.spiCr1.off .rdSpiCr1,
    .write .w32 .spi l.spiCr1.off .wrSpiCr1,
    .read .w32 .spi l.spiCr2.off .rdSpiCr2,
    .write .w32 .spi l.spiCr2.off .wrSpiCr2,
    .read .w32 .spi l.spiSr.off .rdSpiSr,
    .read .w8 .spi l.spiDr.off .rd8SpiDr,
    .read .w16 .spi l.spiDr.off .rd16SpiDr,
    .write .w8 .spi l.spiDr.off fun d => .wr8SpiDr (d.extractLsb' 0 8),
    .write .w16 .spi l.spiDr.off fun d => .wr16SpiDr (d.extractLsb' 0 16) ]

def nvicRows : List BusRow :=
  [ ⟨0xFFFFFFC3#32, 0x40003000#32, fun cmd _ => .rdNvicIser (iserField cmd)⟩,
    ⟨0xFFFFFFC3#32, 0xC0003000#32, fun cmd d => .wrNvicIser (iserField cmd) d⟩,
    ⟨0xFFFFFE00#32, 0x00004000#32, fun cmd _ => .rdNvicIpr (iprField cmd)⟩,
    ⟨0xFFFFFE00#32, 0x80004000#32, fun cmd d => .wrNvicIpr (iprField cmd) (d.extractLsb' 0 8)⟩ ]

/-- The 39 rows of R104, at the offsets of a layout. -/
def busRows (l : Layout) : List BusRow := usartRows l ++ i2cRows l ++ spiRows l ++ nvicRows

/-- Does the command word match the row (R105 step 2)? -/
def BusRow.covers (row : BusRow) (cmd : Word) : Bool := cmd &&& row.mask == row.pattern

/-! ### The refused encodings of R106 -/

/-- What R106 needs to know of a register: the widths in bytes it admits and whether it is read only. -/
structure RegInfo where
  widths : List Nat
  readOnly : Bool

/-- The register defined at an offset of a block, with the admitted widths of R74; `none` where no register
is defined (R83). Only the first byte of a register is an offset at which it is defined: an access at an
interior byte (byte 1 of CR1 by R72) is one at an offset where none is, the model's choice (log entry 4). -/
def regAt (p : Params) (blk off : Nat) : Option RegInfo :=
  if blk = 3 then
    if off < 4 * p.nIser ∧ off % 4 = 0 then some ⟨[4], false⟩ else none
  else if blk = 4 then
    if off < p.nLines then some ⟨[1], false⟩ else none
  else
    (Reg.all.find? fun r => r.blk.code.toNat == blk && (p.layout.of r).off.toNat == off).map fun r =>
      ⟨r.widths, r.readOnly⟩

/-- The offsets the encoding can name in a window, and the first of them that is past the last index
of an NVIC array (R102, R106). -/
def windowLimits (p : Params) (blk : Nat) : Nat × Nat :=
  if blk = 3 then (4 * p.nIser, 0x40)
  else if blk = 4 then (p.nLines, 0x200)
  else (0x400, 0x400)

/-- The class of a command word that matches no row (R106; the order is log entry 4). -/
def classify (p : Params) (cmd : Word) : Reject :=
  let blk := (cmdBlk cmd).toNat
  let off := (cmdOff cmd).toNat
  let bytes := szBytes (cmdSz cmd)
  let limits := windowLimits p blk
  if 5 ≤ blk then .outsideBlock
  else if limits.2 ≤ off then .outsideBlock
  else if limits.1 ≤ off then .indexOutOfRange
  else match regAt p blk off with
    | some reg =>
      if cmdWe cmd && reg.readOnly then .writeToReadOnly
      else if bytes ∉ reg.widths then .width
      else .unmappedOffset
    | none => if off % bytes ≠ 0 then .misaligned else .unmappedOffset

/-! ### Decoding a bus operation (R105) -/

/-- Steps (5) and (6) of R105 for a write: the data word follows the command word. -/
def decodeData (row : BusRow) (cmd : Word) : List Word → Except Reject (Instr × List Word)
  | [] => .error .truncated
  | wdata :: rest =>
    if dataFits (cmdSz cmd) wdata then .ok (row.build cmd wdata, rest) else .error .badCommand

/-- Decode the next operation of the HOST's stream: the steps of R105 in their order. -/
def decodeBus (p : Params) : List Word → Except Reject (Instr × List Word)
  | [] => .error .truncated
  | cmd :: rest =>
    if cmdZero cmd ≠ 0#13 ∨ cmdSz cmd = 0b11#2 then .error .badCommand
    else match (busRows p.layout).find? (fun row => row.covers cmd) with
      | none => .error (classify p cmd)
      | some row =>
        if (row.build cmd 0#32).wf p = false then .error .indexOutOfRange
        else if cmdWe cmd then decodeData row cmd rest
        else .ok (row.build cmd 0#32, rest)

/-! ### Events (R100, R107) -/

/-- A row of R107: the label, how many operand bits follow it, and the operation they make. The
operand stands in whole bytes after the label, the first the least significant (log entry 3). -/
structure EventRow where
  label : Byte
  operandBits : Nat
  build : BitVec 16 → Instr

/-- The 12 rows of R107. -/
def eventRows : List EventRow :=
  [ ⟨0x01#8, 0, fun _ => .evUsartClk⟩,
    ⟨0x02#8, 1, fun o => .evUsartTick (o.getLsbD 0)⟩,
    ⟨0x10#8, 0, fun _ => .evI2cStart⟩,
    ⟨0x11#8, 2, fun o => .evI2cAddr (o.getLsbD 0) (o.getLsbD 1)⟩,
    ⟨0x12#8, 2, fun o => .evI2cTxByte (o.getLsbD 0) (o.getLsbD 1)⟩,
    ⟨0x13#8, 8, fun o => .evI2cRxByte (o.extractLsb' 0 8)⟩,
    ⟨0x14#8, 0, fun _ => .evI2cStop⟩,
    ⟨0x15#8, 0, fun _ => .evI2cBusFree⟩,
    ⟨0x20#8, 0, fun _ => .evSpiLoad⟩,
    ⟨0x21#8, 1, fun o => .evSpiBit (o.getLsbD 0)⟩,
    ⟨0x22#8, 1, fun o => .evSpiModf (o.getLsbD 0)⟩,
    ⟨0x30#8, 10, fun o => .evNvicPend (o.extractLsb' 0 9) (o.getLsbD 9)⟩ ]

/-- The row of a label. -/
def eventRow? (label : Byte) : Option EventRow := eventRows.find? (fun row => row.label == label)

/-- How many whole bytes an operand of so many bits takes. -/
def operandBytes (bits : Nat) : Nat := (bits + 7) / 8

/-- Take an operand of 0, 1 or 2 bytes, least significant byte first. -/
def takeOperand : Nat → List Byte → Option (BitVec 16 × List Byte)
  | 0, rest => some (0#16, rest)
  | 1, b :: rest => some (b.setWidth 16, rest)
  | 2, lo :: hi :: rest => some (hi ++ lo, rest)
  | _, _ => none

/-- Decode the next event of the agents' stream. -/
def decodeEvent (p : Params) : List Byte → Except Reject (Instr × List Byte)
  | [] => .error .truncated
  | label :: rest =>
    match eventRow? label with
    | none => .error .unknownEvent
    | some row =>
      match takeOperand (operandBytes row.operandBits) rest with
      | none => .error .truncated
      | some (operand, rest') =>
        if 2 ^ row.operandBits ≤ operand.toNat then .error .badOperand
        else if (row.build operand).wf p = false then .error .indexOutOfRange
        else .ok (row.build operand, rest')

/-! ### The encoder -/

/-- An encoded operation: words of the HOST's stream, or bytes of the agents' stream. -/
inductive Packet where
  | bus (words : List Word)
  | event (bytes : List Byte)
deriving DecidableEq, Repr

/-- A read of a register. -/
def readPacket (sz : Width) (blk : Blk) (off : BitVec 12) : Packet := .bus [command false sz blk off]

/-- A write of a register: the command word, then the data word. -/
def writePacket (sz : Width) (blk : Blk) (off : BitVec 12) (wdata : Word) : Packet :=
  .bus [command true sz blk off, wdata]

/-- OFF of ISER[r] (R102, R103). -/
def iserOff (r : BitVec 4) : BitVec 12 := 0#6 ++ r ++ 0#2

/-- OFF of IPR[n] (R102, R103). -/
def iprOff (n : BitVec 9) : BitVec 12 := 0#3 ++ n

/-- The words or bytes of an operation: the fields of R100 at the offsets of a layout, the labels of
R107. -/
def encode (l : Layout) : Instr → Packet
  | .rdUsartCr1 => readPacket .w32 .usart l.usartCr1.off
  | .wrUsartCr1 v => writePacket .w32 .usart l.usartCr1.off v
  | .rdUsartCr2 => readPacket .w32 .usart l.usartCr2.off
  | .wrUsartCr2 v => writePacket .w32 .usart l.usartCr2.off v
  | .rdUsartBrr => readPacket .w32 .usart l.usartBrr.off
  | .wrUsartBrr v => writePacket .w32 .usart l.usartBrr.off v
  | .rdUsartRtor => readPacket .w32 .usart l.usartRtor.off
  | .wrUsartRtor v => writePacket .w32 .usart l.usartRtor.off v
  | .rdUsartIsr => readPacket .w32 .usart l.usartIsr.off
  | .rdUsartIcr => readPacket .w32 .usart l.usartIcr.off
  | .wrUsartIcr v => writePacket .w32 .usart l.usartIcr.off v
  | .rdUsartRdr => readPacket .w32 .usart l.usartRdr.off
  | .rdUsartTdr => readPacket .w32 .usart l.usartTdr.off
  | .wrUsartTdr v => writePacket .w32 .usart l.usartTdr.off v
  | .rdI2cCr1 => readPacket .w32 .i2c l.i2cCr1.off
  | .wrI2cCr1 v => writePacket .w32 .i2c l.i2cCr1.off v
  | .rdI2cCr2 => readPacket .w32 .i2c l.i2cCr2.off
  | .wrI2cCr2 v => writePacket .w32 .i2c l.i2cCr2.off v
  | .rdI2cTimingr => readPacket .w32 .i2c l.i2cTimingr.off
  | .wrI2cTimingr v => writePacket .w32 .i2c l.i2cTimingr.off v
  | .rdI2cIsr => readPacket .w32 .i2c l.i2cIsr.off
  | .rdI2cIcr => readPacket .w32 .i2c l.i2cIcr.off
  | .wrI2cIcr v => writePacket .w32 .i2c l.i2cIcr.off v
  | .rdI2cRxdr => readPacket .w32 .i2c l.i2cRxdr.off
  | .rdI2cTxdr => readPacket .w32 .i2c l.i2cTxdr.off
  | .wrI2cTxdr v => writePacket .w32 .i2c l.i2cTxdr.off v
  | .rdSpiCr1 => readPacket .w32 .spi l.spiCr1.off
  | .wrSpiCr1 v => writePacket .w32 .spi l.spiCr1.off v
  | .rdSpiCr2 => readPacket .w32 .spi l.spiCr2.off
  | .wrSpiCr2 v => writePacket .w32 .spi l.spiCr2.off v
  | .rdSpiSr => readPacket .w32 .spi l.spiSr.off
  | .rd8SpiDr => readPacket .w8 .spi l.spiDr.off
  | .rd16SpiDr => readPacket .w16 .spi l.spiDr.off
  | .wr8SpiDr v => writePacket .w8 .spi l.spiDr.off (v.setWidth 32)
  | .wr16SpiDr v => writePacket .w16 .spi l.spiDr.off (v.setWidth 32)
  | .rdNvicIser r => readPacket .w32 .nvicIser (iserOff r)
  | .wrNvicIser r v => writePacket .w32 .nvicIser (iserOff r) v
  | .rdNvicIpr n => readPacket .w8 .nvicIpr (iprOff n)
  | .wrNvicIpr n v => writePacket .w8 .nvicIpr (iprOff n) (v.setWidth 32)
  | .evUsartClk => .event [0x01#8]
  | .evUsartTick p => .event [0x02#8, 0#7 ++ BitVec.ofBool p]
  | .evI2cStart => .event [0x10#8]
  | .evI2cAddr ack lost => .event [0x11#8, 0#6 ++ BitVec.ofBool lost ++ BitVec.ofBool ack]
  | .evI2cTxByte ack lost => .event [0x12#8, 0#6 ++ BitVec.ofBool lost ++ BitVec.ofBool ack]
  | .evI2cRxByte data => .event [0x13#8, data]
  | .evI2cStop => .event [0x14#8]
  | .evI2cBusFree => .event [0x15#8]
  | .evSpiLoad => .event [0x20#8]
  | .evSpiBit m => .event [0x21#8, 0#7 ++ BitVec.ofBool m]
  | .evSpiModf nss => .event [0x22#8, 0#7 ++ BitVec.ofBool nss]
  | .evNvicPend n level =>
    .event [0x30#8, n.extractLsb' 0 8, 0#6 ++ BitVec.ofBool level ++ n.extractLsb' 8 1]

/-! ### Words numbered as the opcode table numbers them -/

/-- Lay out the word `w` of an opcode-table row of `nbits` bits: the EVENT rows have 8 bits (a label,
operand bytes above it), the bus rows 32 (a command word, a data word above it). -/
def layOut (nbits w : Nat) : Packet :=
  if nbits < 32 then
    let label := BitVec.ofNat 8 w
    let operand := [BitVec.ofNat 8 (w / 2 ^ 8), BitVec.ofNat 8 (w / 2 ^ 16)]
    match eventRow? label with
    | none => .event [label]
    | some row => .event (label :: operand.take (operandBytes row.operandBits))
  else
    let cmd := BitVec.ofNat 32 w
    if cmdWe cmd then .bus [cmd, BitVec.ofNat 32 (w / 2 ^ 32)] else .bus [cmd]

/-- The operation at the head of a packet; a reason where there is none. -/
def decodePacket (p : Params) : Packet → Except Reject Instr
  | .bus words => (decodeBus p words).map Prod.fst
  | .event bytes => (decodeEvent p bytes).map Prod.fst

/-- The operation the decoder reads from the table word `w` of `nbits` bits. The table's words are those of the
default layout (R104). -/
def decodeTableWord (nbits w : Nat) : Option Instr := (decodePacket .default (layOut nbits w)).toOption

/-! ### Addresses (R70, R71) -/

/-- `SIZE[blk]` (R71). -/
def Blk.size (p : Params) : Blk → Nat
  | .usart | .i2c | .spi => 0x400
  | .nvicIser => 4 * p.nIser
  | .nvicIpr => p.nLines

/-- The window of an address and the offset inside it (R71), for given base addresses. Windows are
taken disjoint (R71: "the unique block"); `none` is outside the block. -/
def windowOf (p : Params) (base : Blk → Word) (addr : Word) : Option (Blk × BitVec 12) :=
  [Blk.usart, .i2c, .spi, .nvicIser, .nvicIpr].findSome? fun blk =>
    if (base blk).toNat ≤ addr.toNat ∧ addr.toNat < (base blk).toNat + blk.size p then
      some (blk, (addr - base blk).setWidth 12)
    else none

/-- The command word of an access at an address (R101); an address in no window is outside the block. -/
def commandAt (p : Params) (base : Blk → Word) (we : Bool) (sz : Width) (addr : Word) : Except Reject Word :=
  match windowOf p base addr with
  | none => .error .outsideBlock
  | some (blk, off) => .ok (command we sz blk off)

end Sys2Proof
end

