-- ==== Sys2Proof/Machine/State.lean ====
section
/-! DEFINITION. The state of the block (spec 10_state.md), the outcomes of a step other than a next state
(60_exceptions.md R323), and the state after reset (R47, R350). Registers that software reads and
writes whole are bit vectors; flags that hardware sets one by one are Booleans; counters are natural
numbers whose widths are invariants (Sys2Proof/Safety.lean). -/

namespace Sys2Proof.Machine

/-! ### Faults (R9, R323) -/

/-- The closed list of `fault` reasons (R323): an order of operations that corrupts a transfer. The block raises
no trap (R320) and a fault does not stop a run: "a fault is recorded and the run goes on" (R381). No step of
this model ends in the outcome `fault`; the sub-block records the reason, and what the spec does not specify
from there is free (log entry 14). -/
inductive Fault where
  /-- Recorded by a write of USART.CR1 that clears TE or UE inside a frame (R170, R360). Safe: the transmitter is
  free from there. -/
  | txStoppedInFrame
  /-- Recorded by a write of SPI.CR1 that clears SPE while a frame or bytes are under way (R270, R274). Safe: the
  frame and the bytes left are free from there. -/
  | disabledWhileBusy
deriving DecidableEq, Repr

/-! ### USART (R22 to R29) -/

/-- The flags of USART.ISR (R26). -/
structure UsartFlags where
  fe : Bool
  ore : Bool
  idle : Bool
  rxne : Bool
  tc : Bool
  txe : Bool
  rtof : Bool
deriving DecidableEq, Repr

/-- `USART.tx.state` (R29). -/
inductive TxState where
  | idle
  | start
  | data
  | stop
deriving DecidableEq, Repr

/-- `USART.rx.state` (R29). -/
inductive RxState where
  | hunt
  | start
  | data
  | stop
deriving DecidableEq, Repr

/-- The transmit frame machine's hidden state (R29). -/
structure UsartTx where
  state : TxState
  tsr : BitVec 9
  bit : Nat
  stop : Nat
  osc : Nat
deriving DecidableEq, Repr

/-- The receive frame machine's hidden state (R29). -/
structure UsartRx where
  state : RxState
  rsr : BitVec 9
  bit : Nat
  osc : Nat
  prev : Bool
  idleCnt : Nat
  idleArmed : Bool
  rtoRun : Bool
  rtoCnt : Nat
  rtoOsc : Nat
deriving DecidableEq, Repr

/-- The USART sub-block. The last four are the model's own: `draws` counts the levels of `rx_pin` the baud-rate
generator has drawn from the environment (log entry 6); `fault` is the fault recorded, which is never cleared
(R9); while `torn`, the transmitter is not specified (R9), and `tears` counts the free values drawn for it
(log entry 14). -/
structure Usart where
  cr1 : Word
  cr2 : Word
  brr : BitVec 16
  rto : BitVec 24
  isr : UsartFlags
  rdr : BitVec 9
  tdr : BitVec 9
  brgAcc : Nat
  tx : UsartTx
  txPin : Bool
  rx : UsartRx
  draws : Nat
  fault : Option Fault
  torn : Bool
  tears : Nat
deriving DecidableEq, Repr

/-! ### I2C (R30 to R35) -/

/-- The flags of I2C.ISR (R33). -/
structure I2cFlags where
  txe : Bool
  txis : Bool
  rxne : Bool
  nackf : Bool
  stopf : Bool
  tc : Bool
  arlo : Bool
  busy : Bool
deriving DecidableEq, Repr

/-- `I2C.seq.phase` (R35, R204). -/
inductive Phase where
  | idle
  | addr
  | txWait
  | rxByte
  | tc
  | lost
deriving DecidableEq, Repr

/-- What happens on the bus, as the sequencer's steps name it (R202, R207 to R217). The acknowledge slot of a
byte is the receiver's: `ack` and `nack` are the master's, `targetAck` and `targetNack` the target's. -/
inductive BusAct where
  | start
  | repeatedStart
  | sent (b : Byte)
  | received (b : Byte)
  | ack
  | nack
  | targetAck
  | targetNack
  | stop
  | released
deriving DecidableEq, Repr

/-- The I2C sub-block. `wire` and `draws` are the model's own: what the last sequencer step, or software reset,
put on the bus, oldest first (log entry 9), and how many free values have been drawn (log entries 7, 9). The
inputs `scl_in` and `sda_in` are read off that record (Sys2Proof/Machine/I2cLines.lean). -/
structure I2c where
  pe : Bool
  cr2 : Word
  timingr : Word
  isr : I2cFlags
  rxdr : Byte
  txdr : Byte
  phase : Phase
  remaining : Nat
  shift : Byte
  scl : Bool
  sda : Bool
  wire : List BusAct
  draws : Nat
deriving DecidableEq, Repr

/-! ### SPI (R36 to R40) -/

/-- The shifter (R40). -/
structure Shifter where
  busy : Bool
  tx : BitVec 16
  rx : BitVec 16
  cnt : Nat
deriving DecidableEq, Repr

/-- The SPI sub-block. SR is a function of this state (R253) and DR is the two FIFOs (R39). The last four are the
model's own: `wave` is what SCK and MOSI have done since the last S_LOAD, half a period an entry (R258; log
entry 25); `fault` is the fault recorded, which is never cleared (R9); `torn` is set with it, and `tears`
counts the free values drawn for it (log entry 14). -/
structure Spi where
  cr1 : Word
  cr2 : Word
  txf : List Byte
  rxf : List Byte
  sh : Shifter
  ovr : Bool
  modf : Bool
  ovrSeq : Bool
  modfSeq : Bool
  sck : Bool
  mosi : Bool
  wave : List (Bool × Bool)
  fault : Option Fault
  torn : Bool
  tears : Nat
deriving DecidableEq, Repr

/-! ### NVIC (R41 to R43) -/

/-- The NVIC decoder: the enable registers, the priority cells, and the inputs `pend`. There are as many of each
as an index of the encoding can name (R102); those from `N_ISER` and `N_LINES` on are not there: no operation
reaches them (R307). -/
structure Nvic where
  iser : Vector Word 16
  ipr : Vector Byte 512
  pend : Vector Bool 512
deriving DecidableEq, Repr

/-! ### The whole machine -/

/-- Who takes the next step (R10): HOST, another agent or the environment, or the reset input
(R350). -/
inductive Turn where
  | host
  | agent
  | reset
deriving DecidableEq, Repr

/-- The machine: the four sub-blocks, and what stands outside the block and drives it. `rdata` is the
value of the last bus read (R130); `turns` is the schedule (R10); `hostStream` holds the operations
HOST has still to issue, in program order (R78), and `agentStream` the events of the other agents
(R100). These four are the model's own (log entry 1). `params` holds the parameters the model takes as
arguments (R6); no step changes them (log entry 2). -/
structure State where
  params : Params
  usart : Usart
  i2c : I2c
  spi : Spi
  nvic : Nvic
  rdata : Word
  turns : List Turn
  hostStream : List Word
  agentStream : List Byte
deriving DecidableEq, Repr

/-! ### Refusals (R323) -/

/-- The closed list of `refuse` reasons (R323): the spec gives the operation no meaning. All are safe.
The model's own are `notModelled`, `truncated`, `unknownEvent` and `badOperand`. -/
inductive Refusal where
  /-- An operation without a meaning in this model (none is left). Safe. -/
  | notModelled (mnemonic : String)
  /-- A write with a 1 in a reserved bit: every register write (R20). Safe. -/
  | reservedBit
  /-- A reserved field value: USART.CR1 M1:M0, USART.CR2 STOP (R22, R23). Safe. -/
  | reservedValue
  /-- The decoder: a write to ISR, RDR, RXDR or SR (R21, R106). Safe. -/
  | writeToReadOnly
  /-- The decoder: a width the register does not admit (R74). Safe. -/
  | width
  /-- The decoder: a misaligned access (R73). Safe. -/
  | misaligned
  /-- The decoder: an offset at which no register is defined (R83). Safe. -/
  | unmappedOffset
  /-- The decoder: an address in no window (R71). Safe. -/
  | outsideBlock
  /-- The decoder: bits 28:16 set, SZ 0b11, or data wider than the access (R105); `write_field` past
  bit 31 (R137). Safe. -/
  | badCommand
  /-- The decoder and the NVIC operations: an index past the last (R307). Safe. -/
  | indexOutOfRange
  /-- A guarded field changed while the sub-block is enabled (R82, R174, R203, R259). Safe. -/
  | configWhileEnabled
  /-- I2C.CR2 configuration changed while START = 1 (R222). Safe. -/
  | configWhileStart
  /-- SPI.CR2.DS changed while a FIFO holds data (R259). Safe. -/
  | configWithData
  /-- USART.CR1.UE set without a valid divisor (R170). Safe. -/
  | badDivisor
  /-- A write of TDR or TXDR while the sub-block is disabled (R173, R230). Safe. -/
  | disabled
  /-- I2C.S_START with RELOAD or AUTOEND set (R209). Safe. -/
  | reloadAutoend
  /-- I2C.CR2 with START and STOP both 1 (R222). Safe. -/
  | startAndStop
  /-- SPI.CR1 with CRCNEXT set (R262, R270). Safe. -/
  | crcPhase
  /-- SPI.CR1 with SPE set and MSTR clear (R270). Safe. -/
  | slaveMode
  /-- An 8-bit access of SPI.DR with a frame wider than 8 bits (R255, R256). Safe. -/
  | widthVsFrame
  /-- A write of SPI.DR with no room (R255). Safe. -/
  | txFifoOverflow
  /-- A read of SPI.DR with too few bytes (R256). Safe. -/
  | rxFifoUnderflow
  /-- The decoder: the stream ends inside an operation (log entry 5). Safe. -/
  | truncated
  /-- The decoder: a label R107 does not list (log entry 5). Safe. -/
  | unknownEvent
  /-- The decoder: operand bits set that the label's operand does not have (log entry 5). Safe. -/
  | badOperand
deriving DecidableEq, Repr

/-! ### Reset values (R22 to R47, R352) -/

/-- USART.ISR at reset: 0x0000_00C0, TC = TXE = 1 (R26). -/
def UsartFlags.reset : UsartFlags :=
  { fe := false, ore := false, idle := false, rxne := false, tc := true, txe := true, rtof := false }

def UsartTx.reset : UsartTx := { state := .idle, tsr := 0, bit := 0, stop := 0, osc := 0 }

def UsartRx.reset : UsartRx :=
  { state := .hunt, rsr := 0, bit := 0, osc := 0, prev := true, idleCnt := 0, idleArmed := false
    rtoRun := false, rtoCnt := 0, rtoOsc := 0 }

def Usart.reset : Usart :=
  { cr1 := 0, cr2 := 0, brr := 0, rto := 0, isr := .reset, rdr := 0, tdr := 0, brgAcc := 0
    tx := .reset, txPin := true, rx := .reset, draws := 0, fault := none, torn := false, tears := 0 }

/-- I2C.ISR at reset: 0x0000_0001, TXE = 1 (R33). -/
def I2cFlags.reset : I2cFlags :=
  { txe := true, txis := false, rxne := false, nackf := false, stopf := false, tc := false
    arlo := false, busy := false }

def I2c.reset : I2c :=
  { pe := false, cr2 := 0, timingr := 0, isr := .reset, rxdr := 0, txdr := 0, phase := .idle
    remaining := 0, shift := 0, scl := true, sda := true, wire := [], draws := 0 }

def Shifter.reset : Shifter := { busy := false, tx := 0, rx := 0, cnt := 0 }

/-- SPI.CR2 resets to 0x0000_0700 (R37). -/
def Spi.reset : Spi :=
  { cr1 := 0, cr2 := 0x700#32, txf := [], rxf := [], sh := .reset, ovr := false, modf := false
    ovrSeq := false, modfSeq := false, sck := false, mosi := false
    wave := [], fault := none, torn := false, tears := 0 }

/-- The inputs `pend` have no reset value (R43); the model starts them at 0 (log entry 10). -/
def Nvic.reset : Nvic :=
  { iser := Vector.replicate 16 0#32
    ipr := Vector.replicate 512 0#8
    pend := Vector.replicate 512 false }

/-- The machine right after reset, with the default parameters and nothing scheduled. -/
def State.reset : State :=
  { params := .default, usart := .reset, i2c := .reset, spi := .reset, nvic := .reset, rdata := 0
    turns := [], hostStream := [], agentStream := [] }

end Sys2Proof.Machine
end

