-- ==== Sys2Proof/Machine/Operands.lean ====
section
/-! DEFINITION. The operand forms: the named fields of the registers a write carries and a step reads
(10_state.md R22 to R42), the check for reserved bits (R20), and the quantities the rules
compute from fields (word length, divisor, frame width, address bytes, timing). -/

namespace Sys2Proof.Machine

/-- R20: does `v` set a bit that the mask of defined bits does not have? -/
def setsReserved (v defined : Word) : Bool := v &&& ~~~defined != 0#32

/-! ### USART (R22 to R28) -/

namespace UsartCr1

def ue (v : Word) : Bool := v.getLsbD 0
def re (v : Word) : Bool := v.getLsbD 2
def te (v : Word) : Bool := v.getLsbD 3
def m0 (v : Word) : Bool := v.getLsbD 12
def over8 (v : Word) : Bool := v.getLsbD 15
def m1 (v : Word) : Bool := v.getLsbD 28

/-- M1:M0 = 0b11 is reserved (R22). -/
def reservedLength (v : Word) : Bool := m1 v && m0 v

/-- `N_DATA` (R22): 8 for M1:M0 = 0b00, 9 for 0b01, 7 for 0b10; 0b11 is never stored (R170). -/
def nData (v : Word) : Nat := if m1 v then 7 else if m0 v then 9 else 8

/-- `N_OS`: sample ticks per bit (R151). -/
def nOs (v : Word) : Nat := if over8 v then 8 else 16

end UsartCr1

namespace UsartCr2

/-- STOP (R23). -/
def stop (v : Word) : BitVec 2 := v.extractLsb' 12 2
def rtoen (v : Word) : Bool := v.getLsbD 23

/-- STOP = 0b01 and 0b11 are reserved (R23). -/
def reservedStop (v : Word) : Bool := stop v == 0b01#2 || stop v == 0b11#2

/-- `N_STOP` (R23): 1 for STOP = 0b00, 2 for 0b10; the others are never stored (R175). -/
def nStop (v : Word) : Nat := if stop v = 0b10#2 then 2 else 1

end UsartCr2

/-- The divisor `DIV` of BRR and OVER8 (R151). -/
def usartDiv (brr : BitVec 16) (over8 : Bool) : Nat :=
  if over8 then (brr.extractLsb' 4 12 ++ brr.extractLsb' 0 3 ++ 0#1).toNat else brr.toNat

/-- R170: setting UE needs a divisor of at least 16 and, when OVER8 = 1, BRR[3] = 0. -/
def badDivisor (brr : BitVec 16) (over8 : Bool) : Bool :=
  decide (usartDiv brr over8 < 16) || (over8 && brr.getLsbD 3)

/-- The line rate of a kernel clock, informative (R151). DIV = 0 gives no rate, and 0 here: R8 says nothing of a
division by 0, the model's choice (log entry 21). -/
def usartBaud (fck : Nat) (brr : BitVec 16) (over8 : Bool) : Nat :=
  (if over8 then 2 * fck else fck) / usartDiv brr over8

namespace Usart

def nData (u : Usart) : Nat := UsartCr1.nData u.cr1
def nOs (u : Usart) : Nat := UsartCr1.nOs u.cr1
def nStop (u : Usart) : Nat := UsartCr2.nStop u.cr2

/-- `N_FRAME`: bit times of a frame (R154). -/
def nFrame (u : Usart) : Nat := 1 + u.nData + u.nStop

def div (u : Usart) : Nat := usartDiv u.brr (UsartCr1.over8 u.cr1)

end Usart

/-! ### I2C (R30 to R34) -/

namespace I2cCr2

/-- The bits START and STOP. -/
def startBit : Word := 0x00002000#32
def stopBit : Word := 0x00004000#32

def sadd (v : Word) : BitVec 10 := v.extractLsb' 0 10
def rdWrn (v : Word) : Bool := v.getLsbD 10
def add10 (v : Word) : Bool := v.getLsbD 11
def head10r (v : Word) : Bool := v.getLsbD 12
def start (v : Word) : Bool := v.getLsbD 13
def stop (v : Word) : Bool := v.getLsbD 14
def nbytes (v : Word) : Nat := (v.extractLsb' 16 8).toNat
def reload (v : Word) : Bool := v.getLsbD 24
def autoend (v : Word) : Bool := v.getLsbD 25

/-- `cfg` of R222: every field but START and STOP. -/
def cfg (v : Word) : Word := v &&& 0x03FF1FFF#32

/-- CR2 with the configuration of `v` and the given START and STOP. -/
def make (v : Word) (start stop : Bool) : Word := cfg v ||| bitWord 13 start ||| bitWord 14 stop

/-- A 7-bit address byte (R207): `SADD[7:1] ++ RD_WRN`. -/
def addr7 (v : Word) : Byte := (sadd v).extractLsb' 1 7 ++ BitVec.ofBool (rdWrn v)

/-- The 10-bit header byte `H(rw)` (R208): `0b11110 ++ SADD[9:8] ++ rw`. -/
def header (v : Word) (rw : Bool) : Byte := 0b11110#5 ++ (sadd v).extractLsb' 8 2 ++ BitVec.ofBool rw

/-- The low address byte `L` (R208). -/
def addrLow (v : Word) : Byte := (sadd v).extractLsb' 0 8

/-- What the master puts on the bus in the address phase (R207, R208). -/
def addressPhase (v : Word) : List BusAct :=
  if add10 v then
    if rdWrn v then
      if head10r v then [.sent (header v true)]
      else [.sent (header v false), .sent (addrLow v), .repeatedStart, .sent (header v true)]
    else [.sent (header v false), .sent (addrLow v)]
  else [.sent (addr7 v)]

end I2cCr2

namespace Timingr

def scll (v : Word) : Nat := (v.extractLsb' 0 8).toNat
def sclh (v : Word) : Nat := (v.extractLsb' 8 8).toNat
def sdadel (v : Word) : Nat := (v.extractLsb' 16 4).toNat
def scldel (v : Word) : Nat := (v.extractLsb' 20 4).toNat
def presc (v : Word) : Nat := (v.extractLsb' 28 4).toNat

/-- The durations of R201, in kernel clock cycles; no step reads them. -/
def tPresc (v : Word) : Nat := presc v + 1
def tScll (v : Word) : Nat := (scll v + 1) * tPresc v
def tSclh (v : Word) : Nat := (sclh v + 1) * tPresc v
def tSdadel (v : Word) : Nat := sdadel v * tPresc v
def tScldel (v : Word) : Nat := (scldel v + 1) * tPresc v

/-- The least duration of one byte with its acknowledge slot (R201). -/
def byteCycles (v : Word) : Nat := 9 * (tScll v + tSclh v)

end Timingr

/-! ### SPI (R36, R37) -/

namespace SpiCr1

/-- The bits SPE and MSTR. -/
def speBit : Word := 0x00000040#32
def mstrBit : Word := 0x00000004#32

def cpha (v : Word) : Bool := v.getLsbD 0
def cpol (v : Word) : Bool := v.getLsbD 1
def mstr (v : Word) : Bool := v.getLsbD 2
def br (v : Word) : Nat := (v.extractLsb' 3 3).toNat
def spe (v : Word) : Bool := v.getLsbD 6
def lsbfirst (v : Word) : Bool := v.getLsbD 7
def ssi (v : Word) : Bool := v.getLsbD 8
def ssm (v : Word) : Bool := v.getLsbD 9
def crcl (v : Word) : Bool := v.getLsbD 11
def crcnext (v : Word) : Bool := v.getLsbD 12
def crcen (v : Word) : Bool := v.getLsbD 13

/-- Every field but SPE (R259). -/
def config (v : Word) : Word := v &&& ~~~speBit

/-- The SCK frequency of a bus clock, informative (R258). -/
def sckHz (fspi : Nat) (v : Word) : Nat := fspi / 2 ^ (br v + 1)

/-- Whether both sides capture at a rising edge of SCK (the table of R258). -/
def capturesRising (v : Word) : Bool := cpol v == cpha v

/-- Whether both sides capture at the first edge of a bit (the table of R258). -/
def capturesFirstEdge (v : Word) : Bool := !cpha v

/-- Whether both sides change their output at a rising edge of SCK (the table of R258): the other edge. -/
def changesRising (v : Word) : Bool := !capturesRising v

/-- Whether both sides change their output at the first edge of a bit (the table of R258). -/
def changesFirstEdge (v : Word) : Bool := !capturesFirstEdge v

/-- Whether the first bit is out before the first edge (the table of R258). -/
def firstBitBeforeEdge (v : Word) : Bool := capturesFirstEdge v

/-- SCK and MOSI in the two halves of the SCK period that carries the bit `b` (R258): both sides capture at the
edge in the middle, and the output changes at the edge the period begins with, which for CPHA = 0 is the
second edge of the bit before, and for the first bit no edge at all. -/
def bitWave (v : Word) (b : Bool) : List (Bool × Bool) :=
  [(!capturesRising v, b), (capturesRising v, b)]

end SpiCr1

namespace SpiCr2

def ds (v : Word) : BitVec 4 := v.extractLsb' 8 4
def frxth (v : Word) : Bool := v.getLsbD 12

/-- A frame width code below 0b0011 is forced to 0b0111 (R37, R272). -/
def forcedDs (v : Word) : BitVec 4 := if (ds v).toNat < 3 then 0b0111#4 else ds v

/-- CR2 as R272 stores it. -/
def stored (v : Word) : Word := bitWord 12 (frxth v) ||| ((forcedDs v).setWidth 32 <<< 8)

end SpiCr2

namespace Spi

/-- `N`: bits of a frame (R251, R260). -/
def frameBits (p : Spi) : Nat := (SpiCr2.ds p.cr2).toNat + 1

/-- `FB`: FIFO bytes of a frame (R251). -/
def frameBytes (p : Spi) : Nat := if p.frameBits ≤ 8 then 1 else 2

/-- The index of the bit that goes next (R261, R264). -/
def bitIndex (p : Spi) : Nat :=
  if SpiCr1.lsbfirst p.cr1 then p.sh.cnt else p.frameBits - 1 - p.sh.cnt

/-- The internal slave-select level (R267). -/
def nss (p : Spi) (nssIn : Bool) : Bool := if SpiCr1.ssm p.cr1 then SpiCr1.ssi p.cr1 else nssIn

end Spi

/-! ### NVIC (R42, R304) -/

/-- A priority cell keeps the top `bits` bits of what is written; the rest is RAZ/WI (R304). -/
def keepPriority (bits : Nat) (v : Byte) : Byte := (v >>> (8 - bits)) <<< (8 - bits)

/-- The driver's priority byte (R304, R309). -/
def priorityByte (p : Params) (priority subPriority : Byte) : Byte :=
  (priority <<< p.pShift) ||| (subPriority &&& p.subMask)

end Sys2Proof.Machine
end

