-- ==== Sys2Proof/Machine/Flags.lean ====
section
/-! DEFINITION. Every flag computation: the status words software reads (R26, R33, R253), the
write-1-to-clear registers (R182, R228), the FIFO levels (R252) and the NVIC outputs (R306). -/

namespace Sys2Proof.Machine

/-! ### USART.ISR and ICR -/

/-- USART.ISR as a word (R26, R181). -/
def UsartFlags.word (f : UsartFlags) : Word :=
  bitWord 1 f.fe ||| bitWord 3 f.ore ||| bitWord 4 f.idle ||| bitWord 5 f.rxne ||| bitWord 6 f.tc |||
    bitWord 7 f.txe ||| bitWord 11 f.rtof

/-- What a write of ICR leaves (R27, R182). -/
def UsartFlags.clear (f : UsartFlags) (v : Word) : UsartFlags :=
  { f with
    fe := f.fe && !v.getLsbD 1
    ore := f.ore && !v.getLsbD 3
    idle := f.idle && !v.getLsbD 4
    tc := f.tc && !v.getLsbD 6
    rtof := f.rtof && !v.getLsbD 11 }

/-! ### I2C.ISR and ICR -/

/-- I2C.ISR as a word (R33, R227). -/
def I2cFlags.word (f : I2cFlags) : Word :=
  bitWord 0 f.txe ||| bitWord 1 f.txis ||| bitWord 2 f.rxne ||| bitWord 4 f.nackf ||| bitWord 5 f.stopf |||
    bitWord 6 f.tc ||| bitWord 9 f.arlo ||| bitWord 15 f.busy

/-- What a write of ICR leaves (R34, R228). -/
def I2cFlags.clear (f : I2cFlags) (v : Word) : I2cFlags :=
  { f with
    nackf := f.nackf && !v.getLsbD 4
    stopf := f.stopf && !v.getLsbD 5
    arlo := f.arlo && !v.getLsbD 9 }

/-! ### SPI.SR -/

/-- The FIFO level code `lvl(n)` (R252). -/
def fifoLevel (n : Nat) : BitVec 2 :=
  if n = 0 then 0b00#2 else if n = 1 then 0b01#2 else if n = 2 then 0b10#2 else 0b11#2

namespace Spi

/-- RXNE (R253). -/
def rxne (p : Spi) : Bool :=
  if SpiCr2.frxth p.cr2 then decide (1 ≤ p.rxf.length) else decide (2 ≤ p.rxf.length)

/-- TXE (R253). -/
def txe (p : Spi) : Bool := decide (p.txf.length ≤ 2)

/-- A frame or bytes are under way (R253, R270). -/
def underWay (p : Spi) : Bool := p.sh.busy || decide (0 < p.txf.length)

/-- BSY (R253). -/
def bsy (p : Spi) : Bool := SpiCr1.spe p.cr1 && p.underWay

/-- SPI.SR as a function of state (R253); CRCERR is never set (R262). -/
def statusWord (p : Spi) : Word :=
  bitWord 0 p.rxne ||| bitWord 1 p.txe ||| bitWord 5 p.modf ||| bitWord 6 p.ovr ||| bitWord 7 p.bsy |||
    ((fifoLevel p.rxf.length).setWidth 32 <<< 9) ||| ((fifoLevel p.txf.length).setWidth 32 <<< 11)

end Spi

/-! ### NVIC (R301, R306) -/

namespace Nvic

/-- The enable bit of line `n`: ISER[n / 32][n % 32] (R301). -/
def enabled (v : Nvic) (n : Nat) : Bool := (v.iser[n / 32]?.getD 0#32).getLsbD (n % 32)

/-- The priority byte of line `n`: IPR[n] (R301). -/
def priority (v : Nvic) (n : Nat) : Byte := v.ipr[n]?.getD 0#8

/-- The input `pend[n]` (R43). -/
def pending (v : Nvic) (n : Nat) : Bool := v.pend[n]?.getD false

/-- `n` is in `cand` (R306). -/
def candidate (p : Params) (v : Nvic) (n : Nat) : Bool :=
  decide (n < p.nLines) && v.pending n && v.enabled n

/-- The candidate below `k` with the smallest priority byte, among equals the smallest index (R306). -/
def bestBelow (p : Params) (v : Nvic) : Nat → Option Nat
  | 0 => none
  | k + 1 =>
    if v.candidate p k then
      match v.bestBelow p k with
      | none => some k
      | some m => if (v.priority k).toNat < (v.priority m).toNat then some k else some m
    else v.bestBelow p k

/-- The line the decoder presents, if any (R306). -/
def best (p : Params) (v : Nvic) : Option Nat := v.bestBelow p p.nLines

/-- Output `irq_req` (R306). -/
def irqReq (p : Params) (v : Nvic) : Bool := (v.best p).isSome

/-- Output `irq_line` (R306): unspecified when there is no candidate, so a free value there, which may
differ from one moment (numbered by `k`) to another (log entry 8). -/
def irqLine (p : Params) (v : Nvic) (k : Nat) : BitVec 9 :=
  match v.best p with
  | some n => BitVec.ofNat 9 n
  | none => Config.idleIrqLine k

end Nvic

end Sys2Proof.Machine
end

