-- ==== Sys2Proof/Machine/Ops.lean ====
section
/-! DEFINITION. The named operations the meanings share: checks that refuse, a bus read and a bus write under a
layout, an operation confined to one sub-block (20_memory.md R87), and the reset step
(70_reset_and_hazards.md R350). The block takes no trap and returns from none (60_exceptions.md R320,
R327, R328): an error sets a sticky flag, which the meaning of the step that detects it does. -/

namespace Sys2Proof.Machine

/-- An outcome over a sub-block or over the whole machine. -/
abbrev OutcomeOf (σ : Type) : Type := Host.Outcome σ Fault Refusal

/-- An outcome of the machine. -/
abbrev Out : Type := OutcomeOf State

/-- A check of R326 (d): the first that fails decides the outcome. -/
def refuseIf {σ : Type} (bad : Bool) (reason : Refusal) (otherwise : OutcomeOf σ) : OutcomeOf σ :=
  if bad then .refused reason else otherwise

/-- A step of an agent that is not enabled does not happen: nothing changes (log entry 11). -/
def whenEnabled {σ : Type} (enabled : Bool) (s : σ) (step : OutcomeOf σ) : OutcomeOf σ :=
  if enabled then step else .next s

namespace State

/-- The value a bus read returns to HOST, zero-extended to 32 bits (R102, R130). -/
def respond (s : State) (v : Word) : State := { s with rdata := v }

/-- A bus read of a register with this value: HOST gets it as it stands on the bus (R6, R20). -/
def busRead (s : State) (r : Reg) (w : Word) : State := s.respond (toBus s.params.layout r w)

/-- A bus write of a register: a 1 in a reserved bit is refused (R20); `write` goes on with the value. -/
def busWrite (s : State) (r : Reg) (v : Word) (write : Word → Out) : Out :=
  refuseIf (setsReserved v (bitsMask (s.params.layout.of r).pos)) .reservedBit <|
  write (fromBus s.params.layout r v)

def setUsart (s : State) (u : Usart) : State := { s with usart := u }
def setI2c (s : State) (i : I2c) : State := { s with i2c := i }
def setSpi (s : State) (p : Spi) : State := { s with spi := p }
def setNvic (s : State) (v : Nvic) : State := { s with nvic := v }

/-- An operation on the USART alone. -/
def onUsart (s : State) (o : OutcomeOf Usart) : Out :=
  match o with
  | .next u => .next (s.setUsart u)
  | .fault r => .fault r
  | .refused r => .refused r

/-- An operation on the I2C alone. -/
def onI2c (s : State) (o : OutcomeOf I2c) : Out :=
  match o with
  | .next i => .next (s.setI2c i)
  | .fault r => .fault r
  | .refused r => .refused r

/-- An operation on the SPI alone. -/
def onSpi (s : State) (o : OutcomeOf Spi) : Out :=
  match o with
  | .next p => .next (s.setSpi p)
  | .fault r => .fault r
  | .refused r => .refused r

/-- An operation on the NVIC alone. -/
def onNvic (s : State) (o : OutcomeOf Nvic) : Out :=
  match o with
  | .next v => .next (s.setNvic v)
  | .fault r => .fault r
  | .refused r => .refused r

end State

/-- The reset step (R350, R47): every register and every hidden state element at its reset value. The
inputs `pend` keep their levels (R352), a fault recorded stays recorded (R9), and what stands outside the block
is not touched. -/
def resetStep (s : State) : State :=
  { s with
    usart := { Usart.reset with draws := s.usart.draws, fault := s.usart.fault, tears := s.usart.tears }
    i2c := { I2c.reset with draws := s.i2c.draws }
    spi := { Spi.reset with fault := s.spi.fault, tears := s.spi.tears }
    nvic := { Nvic.reset with pend := s.nvic.pend } }

/-- The refusal of a decoder's rejection (R106). -/
def refusalOf : Reject → Refusal
  | .badCommand => .badCommand
  | .outsideBlock => .outsideBlock
  | .writeToReadOnly => .writeToReadOnly
  | .width => .width
  | .misaligned => .misaligned
  | .unmappedOffset => .unmappedOffset
  | .indexOutOfRange => .indexOutOfRange
  | .truncated => .truncated
  | .unknownEvent => .unknownEvent
  | .badOperand => .badOperand

end Sys2Proof.Machine
end

