-- ==== Sys2Proof/Machine/I2c.lean ====
section
/-! DEFINITION. The I2C's bus operations (42_i2c.md R220 to R232) and the level of SCL between steps (the
SCL column of R204). -/

namespace Sys2Proof.Machine

namespace I2c

/-! ### SCL between steps (R204) -/

/-- The master is clocking: it sends the address, or a byte it has or can receive moves next. -/
def clocking (i : I2c) : Bool :=
  match i.phase with
  | .addr => true
  | .txWait => !i.isr.txe
  | .rxByte => !i.isr.rxne
  | .idle | .tc | .lost => false

/-- The SCL column of R204: released in I_IDLE and I_LOST, held low in I_TC, in I_TXWAIT until TXDR is
written and in I_RXBYTE while RXNE = 1. While the master is clocking the level between two steps is
open: a free value (log entry 7). -/
def settle (i : I2c) : I2c :=
  if i.clocking then { i with scl := Config.sclClocking i.draws, draws := i.draws + 1 }
  else { i with scl := decide (i.phase = .idle ∨ i.phase = .lost) }

/-! ### CR1 (R220, R221, R232) -/

/-- Software reset by PE = 0 (R232): the lines are released, the sequencer is idle, START, STOP and the
flags are at reset; TIMINGR, the other CR2 fields, RXDR and TXDR keep their values. R351 says that the sequencer
state is restored: `seq.shift` is part of it (R35), though R232 does not name it (log entry 22). -/
def softReset (i : I2c) : I2c :=
  { i with
    pe := false, cr2 := i.cr2 &&& ~~~(I2cCr2.startBit ||| I2cCr2.stopBit), isr := .reset, phase := .idle, remaining := 0, shift := 0
    scl := true, sda := true, wire := [.released] }

def writeCr1 (i : I2c) (v : Word) : OutcomeOf I2c :=
  .next (if v.getLsbD 0 then { i with pe := true } else i.softReset)

/-! ### CR2 (R222) -/

/-- START and STOP as the write leaves them: set-only, and only while PE = 1 (R222). -/
def newStart (i : I2c) (v : Word) : Bool := I2cCr2.start i.cr2 || (i.pe && I2cCr2.start v)
def newStop (i : I2c) (v : Word) : Bool := I2cCr2.stop i.cr2 || (i.pe && I2cCr2.stop v)

/-- The checks of R222 in their order, then the write; setting START or STOP clears TC. -/
def writeCr2 (i : I2c) (v : Word) : OutcomeOf I2c :=
  refuseIf (I2cCr2.start i.cr2 && I2cCr2.cfg v != I2cCr2.cfg i.cr2) .configWhileStart <|
  refuseIf (i.pe && i.newStart v && i.newStop v) .startAndStop <|
  .next { i with
    cr2 := I2cCr2.make v (i.newStart v) (i.newStop v)
    isr := { i.isr with tc := i.isr.tc && !(i.pe && (I2cCr2.start v || I2cCr2.stop v)) } }

/-! ### TIMINGR, ICR (R203, R224, R228) -/

def writeTimingr (i : I2c) (v : Word) : OutcomeOf I2c :=
  refuseIf (i.pe && v != i.timingr) .configWhileEnabled <|
  .next { i with timingr := v }

def writeIcr (i : I2c) (v : Word) : OutcomeOf I2c :=
  .next { i with isr := i.isr.clear v }

/-! ### RXDR, TXDR (R226, R230) -/

/-- Taking the received byte clears RXNE (R226), which lets SCL go on in I_RXBYTE (R204). -/
def takeRxdr (i : I2c) : I2c :=
  let taken := { i with isr := { i.isr with rxne := false } }
  if i.phase = .rxByte ∧ i.isr.rxne = true then taken.settle else taken

/-- A write of TXDR clears TXE and TXIS (R230), which lets SCL go on in I_TXWAIT (R204). -/
def writeTxdr (i : I2c) (v : Word) : OutcomeOf I2c :=
  let written := { i with txdr := v.setWidth 8, isr := { i.isr with txe := false, txis := false } }
  refuseIf (!i.pe) .disabled <|
  .next (if i.phase = .txWait ∧ i.isr.txe = true then written.settle else written)

end I2c

/-- RD32 I2C.CR1 (R221). -/
def execRdI2cCr1 (s : State) : Out := .next (s.busRead .i2cCr1 (bitWord 0 s.i2c.pe))

/-- WR32 I2C.CR1 (R220, R232). -/
def execWrI2cCr1 (v : Word) (s : State) : Out :=
  s.busWrite .i2cCr1 v fun w => s.onI2c (s.i2c.writeCr1 w)

/-- RD32 I2C.CR2 (R223). -/
def execRdI2cCr2 (s : State) : Out := .next (s.busRead .i2cCr2 s.i2c.cr2)

/-- WR32 I2C.CR2 (R222). -/
def execWrI2cCr2 (v : Word) (s : State) : Out :=
  s.busWrite .i2cCr2 v fun w => s.onI2c (s.i2c.writeCr2 w)

/-- RD32 I2C.TIMINGR (R225). -/
def execRdI2cTimingr (s : State) : Out := .next (s.busRead .i2cTimingr s.i2c.timingr)

/-- WR32 I2C.TIMINGR (R203, R224). -/
def execWrI2cTimingr (v : Word) (s : State) : Out :=
  s.busWrite .i2cTimingr v fun w => s.onI2c (s.i2c.writeTimingr w)

/-- RD32 I2C.ISR (R227). -/
def execRdI2cIsr (s : State) : Out := .next (s.busRead .i2cIsr s.i2c.isr.word)

/-- RD32 I2C.ICR reads 0 (R229). -/
def execRdI2cIcr (s : State) : Out := .next (s.busRead .i2cIcr 0#32)

/-- WR32 I2C.ICR (R228). -/
def execWrI2cIcr (v : Word) (s : State) : Out :=
  s.busWrite .i2cIcr v fun w => s.onI2c (s.i2c.writeIcr w)

/-- RD32 I2C.RXDR (R226). -/
def execRdI2cRxdr (s : State) : Out :=
  .next ((s.setI2c s.i2c.takeRxdr).busRead .i2cRxdr (s.i2c.rxdr.setWidth 32))

/-- RD32 I2C.TXDR (R231). -/
def execRdI2cTxdr (s : State) : Out := .next (s.busRead .i2cTxdr (s.i2c.txdr.setWidth 32))

/-- WR32 I2C.TXDR (R230). -/
def execWrI2cTxdr (v : Word) (s : State) : Out :=
  s.busWrite .i2cTxdr v fun w => s.onI2c (s.i2c.writeTxdr w)

end Sys2Proof.Machine
end

