-- ==== Sys2Proof/Machine/I2cLines.lean ====
section
/-! DEFINITION. The line protocol of the I2C bus (42_i2c.md R202): what each device does with SCL and SDA in what
the record of the bus names, the level of an open-drain line as the AND of its drivers (10_state.md R46), and
the inputs `scl_in` and `sda_in` as the master samples them. -/

namespace Sys2Proof.Machine

/-! ### Lines and drivers (R46, R202) -/

/-- What one device does with the two lines at a moment, or the levels the lines have: true is released, or 1. -/
structure BusLevels where
  scl : Bool
  sda : Bool
deriving DecidableEq, Repr

/-- The level of an open-drain line is the AND of all its drivers: 1 only when every device releases it. -/
def lineLevel (drivers : List Bool) : Bool := drivers.all id

/-- The levels of both lines, for what each device does with them. -/
def busLevels (drivers : List BusLevels) : BusLevels :=
  { scl := lineLevel (drivers.map (·.scl)), sda := lineLevel (drivers.map (·.sda)) }

/-- A device that drives nothing. -/
def BusLevels.released : BusLevels := { scl := true, sda := true }

/-! ### What the devices drive (R202) -/

/-- A bit slot as its sender drives it, who is also the one that clocks: SDA is set while SCL is 0 and kept
while SCL is 1. -/
def bitSlot (b : Bool) : List BusLevels := [{ scl := false, sda := b }, { scl := true, sda := b }]

/-- A bit slot as a device drives it that does not clock. -/
def heldBit (b : Bool) : List BusLevels := [{ scl := true, sda := b }, { scl := true, sda := b }]

/-- The bits of a byte in the order they are sent, most significant first. -/
def bitsOf (b : Byte) : List Bool := [7, 6, 5, 4, 3, 2, 1, 0].map b.getLsbD

/-- What the master drives, moment by moment. START: SDA falls while SCL is 1, from lines that are released; a
repeated one releases them first. STOP: SDA rises while SCL is 1. -/
def masterDrives : BusAct → List BusLevels
  | .start => [{ scl := true, sda := true }, { scl := true, sda := false }]
  | .repeatedStart => [{ scl := false, sda := true }, { scl := true, sda := true }, { scl := true, sda := false }]
  | .sent b => (bitsOf b).flatMap bitSlot
  | .received _ => (bitsOf 0xFF#8).flatMap bitSlot
  | .ack => bitSlot false
  | .nack | .targetAck | .targetNack => bitSlot true
  | .stop => [{ scl := false, sda := false }, { scl := true, sda := false }, { scl := true, sda := true }]
  | .released => [{ scl := true, sda := true }]

/-- What the peer drives meanwhile. A peer that stretches the clock only makes a moment longer (R201), so it is
not seen here. Once the master has released the lines (`released`) the peer drives nothing. After a lost
arbitration another master owns the bus (R204) and what it drives is open, and after PE is cleared inside a
transfer what the target does is not specified (R232), so in both cases this is the model's choice (log
entry 7). So it is that a target drives nothing during a STOP: of one from I_RXBYTE, which ends a read early, the
spec does not specify it (R215; log entry 7). -/
def peerDrives : BusAct → List BusLevels
  | .start => [.released, .released]
  | .repeatedStart => [.released, .released, .released]
  | .sent _ => (bitsOf 0xFF#8).flatMap heldBit
  | .received b => (bitsOf b).flatMap heldBit
  | .ack | .nack | .targetNack => heldBit true
  | .targetAck => heldBit false
  | .stop => [.released, .released, .released]
  | .released => [.released]

/-- The levels of the lines while something happens on the bus. -/
def linesOf (a : BusAct) : List BusLevels :=
  (masterDrives a).zipWith (fun m p => busLevels [m, p]) (peerDrives a)

/-! ### The inputs of the master (R46) -/

namespace I2c

/-- `I2C.scl_in` and `I2C.sda_in` over the last step that acted on the bus, moment by moment. -/
def linesIn (i : I2c) : List BusLevels := i.wire.flatMap linesOf

/-- `I2C.sda_in` at each moment the receiver samples, which is while SCL is 1 (R202). -/
def sdaSamples (i : I2c) : List Bool := (i.linesIn.filter (·.scl)).map (·.sda)

end I2c

/-! ### Bytes the master sends and what answers them (R208, R210, R212) -/

/-- How many bytes are sent. -/
def bytesSent (acts : List BusAct) : Nat := acts.countP fun a => match a with | .sent _ => true | _ => false

/-- Each byte sent, acknowledged by the target. -/
def answered : List BusAct → List BusAct
  | [] => []
  | .sent b :: rest => .sent b :: .targetAck :: answered rest
  | a :: rest => a :: answered rest

/-- The same, but the byte number `k` is not acknowledged and nothing more is sent. -/
def refusedAt : Nat → List BusAct → List BusAct
  | _, [] => []
  | 0, .sent b :: _ => [.sent b, .targetNack]
  | k + 1, .sent b :: rest => .sent b :: .targetAck :: refusedAt k rest
  | k, a :: rest => a :: refusedAt k rest

end Sys2Proof.Machine
end

