-- ==== Sys2Proof/Machine/I2cSeq.lean ====
section
/-! DEFINITION. The I2C sequencer: START, address phase, bytes, STOP, and the environment's BUS_FREE
(42_i2c.md R209 to R217). What happens on the bus stands in `wire` (log entry 9); SDA between steps is
log entry 7. -/

namespace Sys2Proof.Machine

namespace I2c

/-! ### How a transfer ends early (R216, R217) -/

/-- `nack_abort()` (R216): NACKF, and a STOP whatever CR2.STOP holds. `acts` is what the step put on the
bus before. -/
def nackAbort (i : I2c) (acts : List BusAct) : I2c :=
  { i with
    isr := { i.isr with nackf := true, stopf := true, busy := false, txis := false, tc := false }
    remaining := 0, phase := .idle, scl := true, sda := true, wire := acts ++ [.stop] }

/-- `arbitration_lost()` (R217): ARLO, the lines released, BUSY stays 1. How much of `acts` stood on the bus
before is free (log entry 9). -/
def arbitrationLost (i : I2c) (acts : List BusAct) : I2c :=
  { i with
    isr := { i.isr with arlo := true, txis := false, tc := false }
    remaining := 0, phase := .lost, scl := true, sda := true
    wire := acts.take (Config.sentBeforeLoss i.draws) ++ [.released], draws := i.draws + 1 }

/-! ### START (R209) -/

/-- The precondition of S_START. -/
def startEnabled (i : I2c) : Bool :=
  i.pe && I2cCr2.start i.cr2 &&
    (decide (i.phase = .idle) && !i.isr.busy || decide (i.phase = .tc))

/-- S_START (R209): a repeated START from I_TC. TC goes to 0 with the phase I_TC (R205; log entry 17). -/
def sStart (i : I2c) : OutcomeOf I2c :=
  refuseIf (I2cCr2.reload i.cr2 || I2cCr2.autoend i.cr2) .reloadAutoend <|
  .next (settle { i with
    isr := { i.isr with busy := true, tc := false }
    remaining := I2cCr2.nbytes i.cr2, phase := .addr, sda := false
    wire := [if i.phase = .tc then .repeatedStart else .start] })

/-! ### Address phase (R210, R211) -/

/-- `after_addr()` (R211); the target drove the acknowledge slot, so SDA is released. -/
def afterAddr (i : I2c) (acts : List BusAct) : I2c :=
  let taken := { i with sda := true, wire := acts }
  settle <|
    if i.remaining = 0 then { taken with isr := { i.isr with tc := true }, phase := .tc }
    else if I2cCr2.rdWrn i.cr2 then { taken with phase := .rxByte }
    else { taken with phase := .txWait, isr := { i.isr with txis := i.isr.txe || i.isr.txis } }

/-- S_ADDR (R210): START is cleared whatever the answer; `lost` is tested before `ack` (R326 (c)). Each byte is
acknowledged, or the sending ends at one that is not: which one is free (log entry 9). The rule says nothing of the
acknowledge slots of an address phase that is lost: that the record shows the bytes it holds acknowledged, whatever
`ack` is, is the model's choice (log entry 9). -/
def sAddr (i : I2c) (ack lost : Bool) : I2c :=
  let acts := I2cCr2.addressPhase i.cr2
  let sent := { i with cr2 := i.cr2 &&& ~~~I2cCr2.startBit }
  if lost then sent.arbitrationLost (answered acts)
  else if ack then sent.afterAddr (answered acts)
  else
    { sent with draws := i.draws + 1 }.nackAbort (refusedAt (Config.refusedByte i.draws % bytesSent acts) acts)

/-! ### Data bytes (R212, R213) -/

/-- The precondition of S_TXBYTE. -/
def txEnabled (i : I2c) : Bool := decide (i.phase = .txWait) && !i.isr.txe

/-- S_TXBYTE (R212). The rule gives no level for the acknowledge slot of a byte that lost arbitration: that the
record, where it holds the slot, shows an ACK, whatever `ack` is, is the model's choice (log entry 9). -/
def sTxByte (i : I2c) (ack lost : Bool) : I2c :=
  let sent := { i with shift := i.txdr, isr := { i.isr with txe := true }, remaining := i.remaining - 1 }
  if lost then sent.arbitrationLost [.sent i.txdr, .targetAck]
  else if !ack then sent.nackAbort [.sent i.txdr, .targetNack]
  else
    let taken := { sent with sda := true, wire := [.sent i.txdr, .targetAck] }
    settle <|
      if 0 < taken.remaining then { taken with isr := { taken.isr with txis := true } }
      else { taken with isr := { taken.isr with tc := true }, phase := .tc }

/-- The precondition of S_RXBYTE. -/
def rxEnabled (i : I2c) : Bool := decide (i.phase = .rxByte) && !i.isr.rxne

/-- S_RXBYTE (R213): ACK while bytes are left, NACK after the last. -/
def sRxByte (i : I2c) (data : Byte) : I2c :=
  let got := { i with
    shift := data, rxdr := data, isr := { i.isr with rxne := true }, remaining := i.remaining - 1 }
  settle <|
    if 0 < got.remaining then { got with sda := false, wire := [.received data, .ack] }
    else { got with
      sda := true, wire := [.received data, .nack], isr := { got.isr with tc := true }, phase := .tc }

/-! ### STOP (R215) and BUS_FREE (R217) -/

/-- The precondition of S_STOP. -/
def stopEnabled (i : I2c) : Bool :=
  i.pe && I2cCr2.stop i.cr2 && decide (i.phase = .tc ∨ i.phase = .txWait ∨ i.phase = .rxByte)

/-- S_STOP (R215). A byte still in TXDR stays there. -/
def sStop (i : I2c) : I2c :=
  { i with
    cr2 := i.cr2 &&& ~~~I2cCr2.stopBit
    isr := { i.isr with stopf := true, busy := false, tc := false, txis := false }
    remaining := 0, phase := .idle, scl := true, sda := true, wire := [.stop] }

/-- BUS_FREE (R217): the winning master generated its STOP. -/
def busFree (i : I2c) : I2c := { i with isr := { i.isr with busy := false }, phase := .idle }

/-- Some step of I2C.SEQ is enabled (R204). -/
def seqEnabled (i : I2c) : Bool :=
  i.startEnabled || decide (i.phase = .addr) || i.txEnabled || i.rxEnabled || i.stopEnabled

end I2c

/-- EV I2C.S_START (R209). -/
def execEvI2cStart (s : State) : Out := whenEnabled s.i2c.startEnabled s (s.onI2c s.i2c.sStart)

/-- EV I2C.S_ADDR (R210). -/
def execEvI2cAddr (ack lost : Bool) (s : State) : Out :=
  whenEnabled (decide (s.i2c.phase = .addr)) s (s.onI2c (.next (s.i2c.sAddr ack lost)))

/-- EV I2C.S_TXBYTE (R212). -/
def execEvI2cTxByte (ack lost : Bool) (s : State) : Out :=
  whenEnabled s.i2c.txEnabled s (s.onI2c (.next (s.i2c.sTxByte ack lost)))

/-- EV I2C.S_RXBYTE (R213). -/
def execEvI2cRxByte (data : Byte) (s : State) : Out :=
  whenEnabled s.i2c.rxEnabled s (s.onI2c (.next (s.i2c.sRxByte data)))

/-- EV I2C.S_STOP (R215). -/
def execEvI2cStop (s : State) : Out := whenEnabled s.i2c.stopEnabled s (s.onI2c (.next s.i2c.sStop))

/-- EV I2C.BUS_FREE (R217). -/
def execEvI2cBusFree (s : State) : Out :=
  whenEnabled (decide (s.i2c.phase = .lost)) s (s.onI2c (.next s.i2c.busFree))

end Sys2Proof.Machine
end

