-- ==== Sys2Proof/Machine/Nvic.lean ====
section
/-! DEFINITION. The NVIC decoder's operations (44_nvic.md R301 to R308). -/

namespace Sys2Proof.Machine

namespace Nvic

/-- ISER[r] with the bits of `v` set; a 0 bit changes nothing (R302). -/
def setEnables (n : Nvic) (r : Nat) (v : Word) : Nvic :=
  { n with iser := n.iser.setIfInBounds r (n.iser[r]?.getD 0#32 ||| v) }

/-- IPR[n] keeps the implemented high bits, `PRIO_BITS` of them (R304). -/
def setPriority (n : Nvic) (bits line : Nat) (v : Byte) : Nvic :=
  { n with ipr := n.ipr.setIfInBounds line (keepPriority bits v) }

/-- `pend[n]` at a level (R308). -/
def setPending (n : Nvic) (line : Nat) (level : Bool) : Nvic :=
  { n with pend := n.pend.setIfInBounds line level }

end Nvic

/-- The bound of an NVIC index (R307). -/
def outOfRange (index bound : Nat) : Bool := decide (bound ≤ index)

/-- RD32 NVIC.ISER[r] (R303). -/
def execRdNvicIser (r : BitVec 4) (s : State) : Out :=
  refuseIf (outOfRange r.toNat s.params.nIser) .indexOutOfRange <|
  .next (s.respond (s.nvic.iser[r.toNat]?.getD 0#32))

/-- WR32 NVIC.ISER[r] (R302). -/
def execWrNvicIser (r : BitVec 4) (v : Word) (s : State) : Out :=
  refuseIf (outOfRange r.toNat s.params.nIser) .indexOutOfRange <|
  s.onNvic (.next (s.nvic.setEnables r.toNat v))

/-- RD8 NVIC.IPR[n] (R305). -/
def execRdNvicIpr (n : BitVec 9) (s : State) : Out :=
  refuseIf (outOfRange n.toNat s.params.nLines) .indexOutOfRange <|
  .next (s.respond ((s.nvic.priority n.toNat).setWidth 32))

/-- WR8 NVIC.IPR[n] (R304). -/
def execWrNvicIpr (n : BitVec 9) (v : Byte) (s : State) : Out :=
  refuseIf (outOfRange n.toNat s.params.nLines) .indexOutOfRange <|
  s.onNvic (.next (s.nvic.setPriority s.params.prioBits n.toNat v))

/-- EV NVIC.PEND (R308), a step of the environment. -/
def execEvNvicPend (n : BitVec 9) (level : Bool) (s : State) : Out :=
  refuseIf (outOfRange n.toNat s.params.nLines) .indexOutOfRange <|
  s.onNvic (.next (s.nvic.setPending n.toNat level))

end Sys2Proof.Machine
end

