-- ==== Sys2Proof/Machine/Spi.lean ====
section
/-! DEFINITION. The SPI's bus operations (43_spi.md R254 to R256, R259, R270 to R274). -/

namespace Sys2Proof.Machine

namespace Spi

/-! ### CR1 (R270) -/

/-- What an accepted CR1 write does (R270): it ends MODF's clearing sequence, and SCK goes to the new idle level
when SPE is 0. -/
def storeCr1 (p : Spi) (v : Word) : Spi :=
  { p with
    modf := p.modf && !p.modfSeq
    modfSeq := false
    cr1 := v
    sck := if SpiCr1.spe v then p.sck else SpiCr1.cpol v }

/-- The fault recorded (R9, R274): the frame on the wire and the bytes left in the transmit FIFO are free from
here on, inside their widths and in whole frames (log entry 14). -/
def recordDisable (p : Spi) : Spi :=
  let free := Config.tornFrame p.tears
  { p with
    sh := { busy := free.busy, tx := free.tx, rx := free.rx, cnt := free.cnt % 17 }
    mosi := free.mosi
    txf := free.left.take (min free.left.length 4 / p.frameBytes * p.frameBytes)
    fault := some .disabledWhileBusy
    torn := true
    tears := p.tears + 1 }

/-- The checks of R270 in their order, the fault recorded, then the write. -/
def writeCr1 (p : Spi) (v : Word) : OutcomeOf Spi :=
  refuseIf (SpiCr1.crcnext v) .crcPhase <|
  refuseIf (SpiCr1.spe v && !SpiCr1.mstr v) .slaveMode <|
  refuseIf (SpiCr1.spe p.cr1 && SpiCr1.spe v && SpiCr1.config v != SpiCr1.config p.cr1)
    .configWhileEnabled <|
  .next ((if SpiCr1.spe p.cr1 && !SpiCr1.spe v && p.underWay then p.recordDisable else p).storeCr1 v)

/-! ### CR2 (R259, R272) -/

/-- A FIFO holds data (R259). -/
def holdsData (p : Spi) : Bool := !p.txf.isEmpty || !p.rxf.isEmpty

def writeCr2 (p : Spi) (v : Word) : OutcomeOf Spi :=
  refuseIf (SpiCr1.spe p.cr1 && (SpiCr2.forcedDs v != SpiCr2.ds p.cr2 ||
    SpiCr2.frxth v != SpiCr2.frxth p.cr2)) .configWhileEnabled <|
  refuseIf (p.holdsData && SpiCr2.forcedDs v != SpiCr2.ds p.cr2) .configWithData <|
  .next { p with cr2 := SpiCr2.stored v }

/-! ### SR (R254) -/

/-- What a read of SR does: it ends OVR's clearing sequence and begins MODF's (R254, R268). -/
def afterSrRead (p : Spi) : Spi :=
  { p with ovr := p.ovr && !p.ovrSeq, ovrSeq := false, modfSeq := p.modfSeq || p.modf }

/-! ### DR (R255, R256) -/

/-- `frame is two bytes` (R251), which an 8-bit access of DR does not admit. -/
def wideFrame (p : Spi) : Bool := decide (p.frameBytes = 2)

def push8 (p : Spi) (v : Byte) : OutcomeOf Spi :=
  refuseIf p.wideFrame .widthVsFrame <|
  refuseIf (decide (4 < p.txf.length + 1)) .txFifoOverflow <|
  .next { p with txf := p.txf ++ [v] }

/-- Two bytes, the low one first (R255). -/
def push16 (p : Spi) (v : BitVec 16) : OutcomeOf Spi :=
  refuseIf (decide (4 < p.txf.length + 2)) .txFifoOverflow <|
  .next { p with txf := p.txf ++ [v.extractLsb' 0 8, v.extractLsb' 8 8] }

/-- Removing `k` bytes from the receive FIFO; with OVR = 1 this begins its clearing sequence (R256, R268). -/
def pop (p : Spi) (k : Nat) : Spi := { p with rxf := p.rxf.drop k, ovrSeq := p.ovrSeq || p.ovr }

/-- The value of an 8-bit read: the oldest byte. -/
def front8 (p : Spi) : Word := (p.rxf[0]?.getD 0#8).setWidth 32

/-- The value of a 16-bit read: `rxf[1] ++ rxf[0]`. -/
def front16 (p : Spi) : Word := (p.rxf[1]?.getD 0#8 ++ p.rxf[0]?.getD 0#8).setWidth 32

end Spi

/-- RD32 SPI.CR1 (R271). -/
def execRdSpiCr1 (s : State) : Out := .next (s.busRead .spiCr1 s.spi.cr1)

/-- WR32 SPI.CR1 (R270). -/
def execWrSpiCr1 (v : Word) (s : State) : Out :=
  s.busWrite .spiCr1 v fun w => s.onSpi (s.spi.writeCr1 w)

/-- RD32 SPI.CR2 (R273). -/
def execRdSpiCr2 (s : State) : Out := .next (s.busRead .spiCr2 s.spi.cr2)

/-- WR32 SPI.CR2 (R272). -/
def execWrSpiCr2 (v : Word) (s : State) : Out :=
  s.busWrite .spiCr2 v fun w => s.onSpi (s.spi.writeCr2 w)

/-- RD32 SPI.SR (R253, R254): the value is taken before the change. -/
def execRdSpiSr (s : State) : Out :=
  .next ((s.setSpi s.spi.afterSrRead).busRead .spiSr s.spi.statusWord)

/-- RD8 SPI.DR (R256). -/
def execRd8SpiDr (s : State) : Out :=
  refuseIf s.spi.wideFrame .widthVsFrame <|
  refuseIf (decide (s.spi.rxf.length < 1)) .rxFifoUnderflow <|
  .next ((s.setSpi (s.spi.pop 1)).respond s.spi.front8)

/-- RD16 SPI.DR (R256). -/
def execRd16SpiDr (s : State) : Out :=
  refuseIf (decide (s.spi.rxf.length < 2)) .rxFifoUnderflow <|
  .next ((s.setSpi (s.spi.pop 2)).respond s.spi.front16)

/-- WR8 SPI.DR (R255). -/
def execWr8SpiDr (v : Byte) (s : State) : Out := s.onSpi (s.spi.push8 v)

/-- WR16 SPI.DR (R255). -/
def execWr16SpiDr (v : BitVec 16) (s : State) : Out := s.onSpi (s.spi.push16 v)

end Sys2Proof.Machine
end

