-- ==== Sys2Proof/Machine/SpiShift.lean ====
section
/-! DEFINITION. The SPI shifter: loading a frame, exchanging a bit, the mode fault (43_spi.md R263 to R267). -/

namespace Sys2Proof.Machine

namespace Spi

/-- The shifter runs (R257). -/
def running (p : Spi) : Bool := SpiCr1.spe p.cr1 && SpiCr1.mstr p.cr1

/-- The low `n` bits of a frame (R263: bits 15:N cleared). -/
def lowBits (n : Nat) (f : BitVec 16) : BitVec 16 := f &&& BitVec.ofNat 16 (2 ^ n - 1)

/-- A frame with bit `i` set to `b`. -/
def setFrameBit (f : BitVec 16) (i : Nat) (b : Bool) : BitVec 16 :=
  if b then f ||| (1#16 <<< i) else f &&& ~~~(1#16 <<< i)

/-- The frame at the head of the transmit FIFO (R263): two bytes when the frame is wide, low byte first. -/
def nextFrame (p : Spi) : BitVec 16 :=
  if p.frameBytes = 1 then (p.txf[0]?.getD 0#8).setWidth 16
  else p.txf[1]?.getD 0#8 ++ p.txf[0]?.getD 0#8

/-- The precondition of S_LOAD. -/
def loadEnabled (p : Spi) : Bool :=
  p.running && !p.sh.busy && decide (p.frameBytes ≤ p.txf.length)

/-- S_LOAD (R263). -/
def sLoad (p : Spi) : Spi :=
  { p with
    txf := p.txf.drop p.frameBytes
    sh := { busy := true, tx := lowBits p.frameBits p.nextFrame, rx := 0, cnt := 0 }
    wave := [] }

/-- The bytes of a received frame (R265). -/
def frameAsBytes (p : Spi) (rx : BitVec 16) : List Byte :=
  if p.frameBytes = 1 then [rx.extractLsb' 0 8] else [rx.extractLsb' 0 8, rx.extractLsb' 8 8]

/-- `frame_done()` (R265): the frame goes to the receive FIFO, or is lost and OVR is set. -/
def frameDone (p : Spi) : Spi :=
  let fits := p.rxf.length + p.frameBytes ≤ 4
  { p with
    rxf := if fits then p.rxf ++ p.frameAsBytes p.sh.rx else p.rxf
    ovr := if fits then p.ovr else true
    sh := { p.sh with busy := false, cnt := 0 }
    sck := SpiCr1.cpol p.cr1 }

/-- The precondition of S_BIT. -/
def bitEnabled (p : Spi) : Bool := SpiCr1.spe p.cr1 && p.sh.busy

/-- S_BIT (R264): one SCK period, with its edges as R258 says. The frame that `frame_done` delivers holds the bit
just captured: by the letter of R9 it would read the shift register as it was before the step, and no frame
would ever be whole; the model's choice (log entry 23). -/
def sBit (p : Spi) (miso : Bool) : Spi :=
  let b := p.sh.tx.getLsbD p.bitIndex
  let exchanged := { p with
    mosi := b
    sh := { p.sh with rx := setFrameBit p.sh.rx p.bitIndex miso }
    wave := p.wave ++ SpiCr1.bitWave p.cr1 b }
  if p.sh.cnt + 1 < p.frameBits then
    { exchanged with sh := { exchanged.sh with cnt := p.sh.cnt + 1 } }
  else exchanged.frameDone

/-- S_MODF (R267): the internal slave-select is low in master mode. -/
def sModf (p : Spi) (nssIn : Bool) : Spi :=
  if p.nss nssIn then p
  else { p with
    modf := true
    cr1 := p.cr1 &&& ~~~(SpiCr1.speBit ||| SpiCr1.mstrBit)
    sh := { p.sh with busy := false, cnt := 0 }
    sck := SpiCr1.cpol p.cr1 }

end Spi

/-- EV SPI.S_LOAD (R263). -/
def execEvSpiLoad (s : State) : Out := whenEnabled s.spi.loadEnabled s (s.onSpi (.next s.spi.sLoad))

/-- EV SPI.S_BIT (R264). -/
def execEvSpiBit (miso : Bool) (s : State) : Out :=
  whenEnabled s.spi.bitEnabled s (s.onSpi (.next (s.spi.sBit miso)))

/-- EV SPI.S_MODF (R267). -/
def execEvSpiModf (nssIn : Bool) (s : State) : Out :=
  whenEnabled s.spi.running s (s.onSpi (.next (s.spi.sModf nssIn)))

end Sys2Proof.Machine
end

