-- ==== Sys2Proof/Machine/Usart.lean ====
section
/-! DEFINITION. The USART's bus operations (41_usart.md R166, R170 to R185). -/

namespace Sys2Proof.Machine

/-! ### The local resets (R166, R185, R351) -/

/-- Receiver off (R166): the receiver's hidden state is restored, and the ISR flags and RDR keep their values
(R351). `rx.rsr` is part of that hidden state (R29), though R166 does not name it (log entry 22). -/
def UsartRx.off (x : UsartRx) : UsartRx :=
  { x with
    state := .hunt, rsr := 0, bit := 0, osc := 0, prev := true, idleCnt := 0, idleArmed := false
    rtoRun := false, rtoCnt := 0, rtoOsc := 0 }

/-- Block disable (R185): ISR and every hidden state element at reset, a torn transmitter's as well. -/
def Usart.disable (u : Usart) : Usart :=
  { u with isr := .reset, brgAcc := 0, tx := .reset, txPin := true, rx := .reset, torn := false }

/-! ### A transmitter stopped inside a frame (R9, R170; log entry 14) -/

/-- A transmitter state from a free value. -/
def TxState.ofFin : Fin 4 → TxState
  | 0 => .idle
  | 1 => .start
  | 2 => .data
  | 3 => .stop

/-- The transmitter, its pin and its two flags at free values, inside their widths. -/
def Usart.tear (u : Usart) : Usart :=
  let free := Config.tornTx u.tears
  { u with
    tx := { state := .ofFin free.state, tsr := free.tsr, bit := free.bit % u.nData
            stop := free.stop % u.nStop, osc := free.osc % u.nOs }
    txPin := free.txPin
    isr := { u.isr with txe := free.txe, tc := free.tc }
    tears := u.tears + 1 }

/-- The fault recorded: from here on the transmitter is not specified. -/
def Usart.recordStop (u : Usart) : Usart :=
  { u.tear with fault := some .txStoppedInFrame, torn := true }

/-! ### CR1 (R170, R171) -/

/-- The guard of R174 on CR1: M0, M1, OVER8 may not change while UE stays 1. -/
def cr1Guarded (old v : Word) : Bool :=
  UsartCr1.ue old && UsartCr1.ue v &&
    (UsartCr1.m0 v != UsartCr1.m0 old || UsartCr1.m1 v != UsartCr1.m1 old ||
      UsartCr1.over8 v != UsartCr1.over8 old)

/-- The transmitter is stopped inside a frame (R170, R360). -/
def stopsInFrame (u : Usart) (v : Word) : Bool :=
  UsartCr1.ue u.cr1 && UsartCr1.te u.cr1 && (!UsartCr1.te v || !UsartCr1.ue v) &&
    (u.tx.state != .idle || !u.isr.txe)

/-- What an accepted CR1 write does (R170). -/
def Usart.storeCr1 (u : Usart) (v : Word) : Usart :=
  let stored := { u with cr1 := v }
  let received :=
    if UsartCr1.re u.cr1 && !UsartCr1.re v then { stored with rx := stored.rx.off } else stored
  if UsartCr1.ue v then received else received.disable

/-- The checks of R170 in their order, the fault recorded, then the write. -/
def Usart.writeCr1 (u : Usart) (v : Word) : OutcomeOf Usart :=
  refuseIf (UsartCr1.reservedLength v) .reservedValue <|
  refuseIf (cr1Guarded u.cr1 v) .configWhileEnabled <|
  refuseIf (!UsartCr1.ue u.cr1 && UsartCr1.ue v && badDivisor u.brr (UsartCr1.over8 v)) .badDivisor <|
  .next ((if stopsInFrame u v then u.recordStop else u).storeCr1 v)

/-- WR32 USART.CR1 (R170). -/
def execWrUsartCr1 (v : Word) (s : State) : Out :=
  s.busWrite .usartCr1 v fun w => s.onUsart (s.usart.writeCr1 w)

/-- RD32 USART.CR1 (R171). -/
def execRdUsartCr1 (s : State) : Out := .next (s.busRead .usartCr1 s.usart.cr1)

/-! ### CR2, BRR, RTOR (R174 to R180) -/

/-- The guard of R174 on CR2: STOP and RTOEN may not change while UE = 1. -/
def Usart.writeCr2 (u : Usart) (v : Word) : OutcomeOf Usart :=
  refuseIf (UsartCr2.reservedStop v) .reservedValue <|
  refuseIf (UsartCr1.ue u.cr1 && (UsartCr2.stop v != UsartCr2.stop u.cr2 ||
    UsartCr2.rtoen v != UsartCr2.rtoen u.cr2)) .configWhileEnabled <|
  .next { u with cr2 := v }

/-- WR32 USART.CR2 (R175). -/
def execWrUsartCr2 (v : Word) (s : State) : Out :=
  s.busWrite .usartCr2 v fun w => s.onUsart (s.usart.writeCr2 w)

/-- RD32 USART.CR2 (R176). -/
def execRdUsartCr2 (s : State) : Out := .next (s.busRead .usartCr2 s.usart.cr2)

/-- BRR may not change while UE = 1 (R174); the divisor is checked when UE is set (R177). -/
def Usart.writeBrr (u : Usart) (v : Word) : OutcomeOf Usart :=
  refuseIf (UsartCr1.ue u.cr1 && v.setWidth 16 != u.brr) .configWhileEnabled <|
  .next { u with brr := v.setWidth 16 }

/-- WR32 USART.BRR (R177). -/
def execWrUsartBrr (v : Word) (s : State) : Out :=
  s.busWrite .usartBrr v fun w => s.onUsart (s.usart.writeBrr w)

/-- RD32 USART.BRR (R178). -/
def execRdUsartBrr (s : State) : Out := .next (s.busRead .usartBrr (s.usart.brr.setWidth 32))

/-- RTOR.RTO may be written at any time (R174, R179). -/
def Usart.writeRtor (u : Usart) (v : Word) : OutcomeOf Usart :=
  .next { u with rto := v.setWidth 24 }

/-- WR32 USART.RTOR (R179). -/
def execWrUsartRtor (v : Word) (s : State) : Out :=
  s.busWrite .usartRtor v fun w => s.onUsart (s.usart.writeRtor w)

/-- RD32 USART.RTOR (R180). -/
def execRdUsartRtor (s : State) : Out := .next (s.busRead .usartRtor (s.usart.rto.setWidth 32))

/-! ### ISR, ICR (R181 to R183) -/

/-- RD32 USART.ISR (R181). -/
def execRdUsartIsr (s : State) : Out := .next (s.busRead .usartIsr s.usart.isr.word)

/-- RD32 USART.ICR reads 0 (R183). -/
def execRdUsartIcr (s : State) : Out := .next (s.busRead .usartIcr 0#32)

/-- A clear changes no hidden state (R182). -/
def Usart.writeIcr (u : Usart) (v : Word) : OutcomeOf Usart :=
  .next { u with isr := u.isr.clear v }

/-- WR32 USART.ICR (R182). -/
def execWrUsartIcr (v : Word) (s : State) : Out :=
  s.busWrite .usartIcr v fun w => s.onUsart (s.usart.writeIcr w)

/-! ### RDR, TDR (R172, R173, R184) -/

/-- Taking the received character clears RXNE (R172). -/
def Usart.takeRdr (u : Usart) : Usart := { u with isr := { u.isr with rxne := false } }

/-- RD32 USART.RDR (R172). -/
def execRdUsartRdr (s : State) : Out :=
  .next ((s.setUsart s.usart.takeRdr).busRead .usartRdr (s.usart.rdr.setWidth 32))

/-- RD32 USART.TDR (R184). -/
def execRdUsartTdr (s : State) : Out := .next (s.busRead .usartTdr (s.usart.tdr.setWidth 32))

/-- A write of TDR clears TXE and TC (R173). -/
def Usart.writeTdr (u : Usart) (v : Word) : OutcomeOf Usart :=
  refuseIf (!UsartCr1.ue u.cr1) .disabled <|
  .next { u with tdr := v.setWidth 9, isr := { u.isr with txe := false, tc := false } }

/-- WR32 USART.TDR (R173). -/
def execWrUsartTdr (v : Word) (s : State) : Out :=
  s.busWrite .usartTdr v fun w => s.onUsart (s.usart.writeTdr w)

end Sys2Proof.Machine
end

