-- ==== Sys2Proof/Machine/UsartFrame.lean ====
section
/-! DEFINITION. The USART's agents: the baud-rate generator, the transmit frame machine and the receive
frame machine with its idle and timeout detectors (41_usart.md R150 to R169). -/

namespace Sys2Proof.Machine

namespace Usart

/-! ### The transmit frame machine (R155 to R160) -/

/-- A character waits in TDR: load it and drive the start bit (R156, R159). -/
def txLoad (u : Usart) : Usart :=
  { u with
    tx := { u.tx with state := .start, tsr := u.tdr }
    isr := { u.isr with txe := true }
    txPin := false }

/-- Boundary in T_IDLE (R156). -/
def txIdle (u : Usart) : Usart := if u.isr.txe then { u with txPin := true } else u.txLoad

/-- Boundary in T_START (R157). -/
def txStart (u : Usart) : Usart :=
  { u with tx := { u.tx with state := .data, bit := 0 }, txPin := u.tx.tsr.getLsbD 0 }

/-- Boundary in T_DATA (R158). -/
def txData (u : Usart) : Usart :=
  if u.tx.bit + 1 < u.nData then
    { u with tx := { u.tx with bit := u.tx.bit + 1 }, txPin := u.tx.tsr.getLsbD (u.tx.bit + 1) }
  else
    { u with tx := { u.tx with state := .stop, stop := 0 }, txPin := true }

/-- Boundary in T_STOP (R159). -/
def txStop (u : Usart) : Usart :=
  if u.tx.stop + 1 < u.nStop then { u with tx := { u.tx with stop := u.tx.stop + 1 } }
  else if u.isr.txe then
    { u with tx := { u.tx with state := .idle }, isr := { u.isr with tc := true }, txPin := true }
  else u.txLoad

/-- The action of a bit boundary (R155). -/
def txBoundary (u : Usart) : Usart :=
  match u.tx.state with
  | .idle => u.txIdle
  | .start => u.txStart
  | .data => u.txData
  | .stop => u.txStop

/-- TXSTEP (R155). -/
def txStep (u : Usart) : Usart :=
  if u.tx.osc + 1 < u.nOs then { u with tx := { u.tx with osc := u.tx.osc + 1 } }
  else txBoundary { u with tx := { u.tx with osc := 0 } }

/-- Transmitter off (R160). -/
def txOff (u : Usart) : Usart := { u with tx := { u.tx with osc := 0 }, txPin := true }

/-! ### The receive frame machine (R161 to R165) -/

/-- A start edge: the line was 1 at the previous tick and is 0 now (R162). -/
def startEdge (u : Usart) (p : Bool) : Bool := u.rx.prev && !p

/-- R_HUNT (R162). -/
def rxHunt (u : Usart) (p : Bool) : Usart :=
  if u.startEdge p then { u with rx := { u.rx with state := .start, osc := 0 } } else u

/-- R_START (R163). -/
def rxStart (u : Usart) (p : Bool) : Usart :=
  let k := u.rx.osc + 1
  if k = u.nOs / 2 then
    if p then { u with rx := { u.rx with state := .hunt, osc := 0 } }
    else { u with rx := { u.rx with osc := k, rtoRun := false } }
  else if k = u.nOs then { u with rx := { u.rx with state := .data, bit := 0, osc := 0 } }
  else { u with rx := { u.rx with osc := k } }

/-- The shift register with bit `i` set to `p`. -/
def setRsr (r : BitVec 9) (i : Nat) (p : Bool) : BitVec 9 :=
  if p then r ||| (1#9 <<< i) else r &&& ~~~(1#9 <<< i)

/-- R_DATA (R164). -/
def rxData (u : Usart) (p : Bool) : Usart :=
  let k := u.rx.osc + 1
  if k = u.nOs / 2 then
    { u with rx := { u.rx with rsr := setRsr u.rx.rsr u.rx.bit p, osc := k } }
  else if k = u.nOs then
    if u.rx.bit + 1 < u.nData then { u with rx := { u.rx with osc := 0, bit := u.rx.bit + 1 } }
    else { u with rx := { u.rx with osc := 0, state := .stop } }
  else { u with rx := { u.rx with osc := k } }

/-- The received character: the low `N_DATA` bits of the shift register, zero-extended (R165). -/
def received (u : Usart) : BitVec 9 := u.rx.rsr &&& BitVec.ofNat 9 (2 ^ u.nData - 1)

/-- Delivery of a completed frame: overrun, or the character with a framing error when the stop bit was
sampled 0 (R165). -/
def deliver (u : Usart) (p : Bool) : Usart :=
  if u.isr.rxne then { u with isr := { u.isr with ore := true } }
  else { u with rdr := u.received, isr := { u.isr with rxne := true, fe := u.isr.fe || !p } }

/-- The detectors as a completed frame leaves them (R165). -/
def rearm (u : Usart) : Usart :=
  { u with
    rx := { u.rx with
      state := .hunt, osc := 0, idleArmed := true, idleCnt := 0
      rtoRun := UsartCr2.rtoen u.cr2, rtoCnt := 0, rtoOsc := 0 } }

/-- R_STOP (R165). -/
def rxStop (u : Usart) (p : Bool) : Usart :=
  let k := u.rx.osc + 1
  if k = u.nOs / 2 then (u.deliver p).rearm
  else { u with rx := { u.rx with osc := k } }

/-- The one of R162 to R165 that acts. -/
def rxFrame (u : Usart) (p : Bool) : Usart :=
  match u.rx.state with
  | .hunt => u.rxHunt p
  | .start => u.rxStart p
  | .data => u.rxData p
  | .stop => u.rxStop p

/-! ### The detectors (R167, R168) -/

/-- The idle-line detector (R167); `pre` is the state before the tick (R9), `u` what the frame machine
made of it. -/
def idleDetect (pre : Usart) (p : Bool) (u : Usart) : Usart :=
  if pre.rx.state = .hunt ∧ pre.startEdge p = false then
    if p = false then { u with rx := { u.rx with idleCnt := 0 } }
    else if pre.rx.idleCnt + 1 < pre.nFrame * pre.nOs then
      { u with rx := { u.rx with idleCnt := pre.rx.idleCnt + 1 } }
    else if pre.rx.idleArmed then
      { u with
        rx := { u.rx with idleCnt := pre.nFrame * pre.nOs, idleArmed := false }
        isr := { u.isr with idle := true } }
    else { u with rx := { u.rx with idleCnt := pre.nFrame * pre.nOs } }
  else { u with rx := { u.rx with idleCnt := 0 } }

/-- The receive-timeout detector (R168): it runs after R163 had its chance to clear `rto_run`. -/
def timeoutDetect (pre : Usart) (u : Usart) : Usart :=
  if u.rx.rtoRun = true ∧ (pre.rx.state = .hunt ∨ pre.rx.state = .start) then
    if u.rx.rtoOsc + 1 < u.nOs then { u with rx := { u.rx with rtoOsc := u.rx.rtoOsc + 1 } }
    else if u.rto.toNat ≤ u.rx.rtoCnt + 1 then
      { u with
        rx := { u.rx with rtoOsc := 0, rtoCnt := u.rx.rtoCnt + 1, rtoRun := false }
        isr := { u.isr with rtof := true } }
    else { u with rx := { u.rx with rtoOsc := 0, rtoCnt := u.rx.rtoCnt + 1 } }
  else u

/-- RXSTEP (R161). -/
def rxStep (u : Usart) (p : Bool) : Usart :=
  let framed := u.rxFrame p
  let detected := timeoutDetect u (idleDetect u p framed)
  { detected with rx := { detected.rx with prev := p } }

/-! ### Ticks and kernel-clock cycles (R152, R169) -/

/-- One sample tick (R169). A torn transmitter is not specified (log entry 14). -/
def tick (u : Usart) (p : Bool) : Usart :=
  let r := if UsartCr1.re u.cr1 then u.rxStep p else u
  if r.torn then r.tear else if UsartCr1.te r.cr1 then r.txStep else r.txOff

/-- One kernel-clock cycle of the baud-rate generator (R152). The level of `rx_pin` at a tick is the
environment's draw (log entry 6). -/
def clock (u : Usart) : Usart :=
  if u.div ≤ u.brgAcc + 16 then
    tick { u with brgAcc := u.brgAcc + 16 - u.div, draws := u.draws + 1 } (Config.rxDraw u.draws)
  else { u with brgAcc := u.brgAcc + 16 }

end Usart

/-- EV USART.CLK (R152). -/
def execEvUsartClk (s : State) : Out :=
  whenEnabled (UsartCr1.ue s.usart.cr1) s (s.onUsart (.next s.usart.clock))

/-- EV USART.TICK (R169). -/
def execEvUsartTick (rxPin : Bool) (s : State) : Out :=
  whenEnabled (UsartCr1.ue s.usart.cr1) s (s.onUsart (.next (s.usart.tick rxPin)))

end Sys2Proof.Machine
end

