-- ==== Sys2Proof/Machine/Dispatch.lean ====
section
/-! DEFINITION. The dispatch: one arm per operation, each one direct call of its meaning. -/

namespace Sys2Proof.Machine

def exec (i : Instr) (s : State) : Host.Outcome State Fault Refusal :=
  match i with
  -- USART bus operations
  | .rdUsartCr1 => Sys2Proof.Machine.execRdUsartCr1 s
  | .wrUsartCr1 v => Sys2Proof.Machine.execWrUsartCr1 v s
  | .rdUsartCr2 => Sys2Proof.Machine.execRdUsartCr2 s
  | .wrUsartCr2 v => Sys2Proof.Machine.execWrUsartCr2 v s
  | .rdUsartBrr => Sys2Proof.Machine.execRdUsartBrr s
  | .wrUsartBrr v => Sys2Proof.Machine.execWrUsartBrr v s
  | .rdUsartRtor => Sys2Proof.Machine.execRdUsartRtor s
  | .wrUsartRtor v => Sys2Proof.Machine.execWrUsartRtor v s
  | .rdUsartIsr => Sys2Proof.Machine.execRdUsartIsr s
  | .rdUsartIcr => Sys2Proof.Machine.execRdUsartIcr s
  | .wrUsartIcr v => Sys2Proof.Machine.execWrUsartIcr v s
  | .rdUsartRdr => Sys2Proof.Machine.execRdUsartRdr s
  | .rdUsartTdr => Sys2Proof.Machine.execRdUsartTdr s
  | .wrUsartTdr v => Sys2Proof.Machine.execWrUsartTdr v s
  -- I2C bus operations
  | .rdI2cCr1 => Sys2Proof.Machine.execRdI2cCr1 s
  | .wrI2cCr1 v => Sys2Proof.Machine.execWrI2cCr1 v s
  | .rdI2cCr2 => Sys2Proof.Machine.execRdI2cCr2 s
  | .wrI2cCr2 v => Sys2Proof.Machine.execWrI2cCr2 v s
  | .rdI2cTimingr => Sys2Proof.Machine.execRdI2cTimingr s
  | .wrI2cTimingr v => Sys2Proof.Machine.execWrI2cTimingr v s
  | .rdI2cIsr => Sys2Proof.Machine.execRdI2cIsr s
  | .rdI2cIcr => Sys2Proof.Machine.execRdI2cIcr s
  | .wrI2cIcr v => Sys2Proof.Machine.execWrI2cIcr v s
  | .rdI2cRxdr => Sys2Proof.Machine.execRdI2cRxdr s
  | .rdI2cTxdr => Sys2Proof.Machine.execRdI2cTxdr s
  | .wrI2cTxdr v => Sys2Proof.Machine.execWrI2cTxdr v s
  -- SPI bus operations
  | .rdSpiCr1 => Sys2Proof.Machine.execRdSpiCr1 s
  | .wrSpiCr1 v => Sys2Proof.Machine.execWrSpiCr1 v s
  | .rdSpiCr2 => Sys2Proof.Machine.execRdSpiCr2 s
  | .wrSpiCr2 v => Sys2Proof.Machine.execWrSpiCr2 v s
  | .rdSpiSr => Sys2Proof.Machine.execRdSpiSr s
  | .rd8SpiDr => Sys2Proof.Machine.execRd8SpiDr s
  | .rd16SpiDr => Sys2Proof.Machine.execRd16SpiDr s
  | .wr8SpiDr v => Sys2Proof.Machine.execWr8SpiDr v s
  | .wr16SpiDr v => Sys2Proof.Machine.execWr16SpiDr v s
  -- NVIC bus operations
  | .rdNvicIser r => Sys2Proof.Machine.execRdNvicIser r s
  | .wrNvicIser r v => Sys2Proof.Machine.execWrNvicIser r v s
  | .rdNvicIpr n => Sys2Proof.Machine.execRdNvicIpr n s
  | .wrNvicIpr n v => Sys2Proof.Machine.execWrNvicIpr n v s
  -- events
  | .evUsartClk => Sys2Proof.Machine.execEvUsartClk s
  | .evUsartTick p => Sys2Proof.Machine.execEvUsartTick p s
  | .evI2cStart => Sys2Proof.Machine.execEvI2cStart s
  | .evI2cAddr ack lost => Sys2Proof.Machine.execEvI2cAddr ack lost s
  | .evI2cTxByte ack lost => Sys2Proof.Machine.execEvI2cTxByte ack lost s
  | .evI2cRxByte data => Sys2Proof.Machine.execEvI2cRxByte data s
  | .evI2cStop => Sys2Proof.Machine.execEvI2cStop s
  | .evI2cBusFree => Sys2Proof.Machine.execEvI2cBusFree s
  | .evSpiLoad => Sys2Proof.Machine.execEvSpiLoad s
  | .evSpiBit miso => Sys2Proof.Machine.execEvSpiBit miso s
  | .evSpiModf nss => Sys2Proof.Machine.execEvSpiModf nss s
  | .evNvicPend n level => Sys2Proof.Machine.execEvNvicPend n level s

end Sys2Proof.Machine
end

