-- ==== Sys2Proof/Machine/Fetch.lean ====
section
/-! DEFINITION. Where the next step comes from: the schedule says who moves (00_scope.md R10), HOST's
operations are taken from its stream in program order (20_memory.md R78), the other agents' events from
theirs. -/

namespace Sys2Proof.Machine

/-- What the schedule gives: nothing to do, the reset input, an operation to run at a state from whose
streams it has been taken, or an encoding that is refused. -/
inductive Fetched where
  | idle (s : State)
  | reset (s : State)
  | run (i : Instr) (s : State)
  | reject (r : Refusal)

/-- HOST's next operation; when it has issued its last, nothing happens (R381: "the block never halts"). -/
def fetchHost (s : State) : Fetched :=
  match s.hostStream with
  | [] => .idle s
  | cmd :: more =>
    match decodeBus s.params (cmd :: more) with
    | .ok (i, rest) => .run i { s with hostStream := rest }
    | .error r => .reject (refusalOf r)

/-- The next event of the other agents. -/
def fetchAgent (s : State) : Fetched :=
  match s.agentStream with
  | [] => .idle s
  | label :: more =>
    match decodeEvent s.params (label :: more) with
    | .ok (i, rest) => .run i { s with agentStream := rest }
    | .error r => .reject (refusalOf r)

/-- The next step of the schedule; an empty schedule is idle (log entry 1). -/
def fetch (s : State) : Fetched :=
  match s.turns with
  | [] => .idle s
  | .host :: turns => fetchHost { s with turns := turns }
  | .agent :: turns => fetchAgent { s with turns := turns }
  | .reset :: turns => .reset { s with turns := turns }

/-- Put an encoded operation at the front of the schedule and of the stream it belongs to. -/
def place (s : State) : Packet → State
  | .bus words => { s with turns := .host :: s.turns, hostStream := words ++ s.hostStream }
  | .event bytes => { s with turns := .agent :: s.turns, agentStream := bytes ++ s.agentStream }

end Sys2Proof.Machine
end

