-- ==== Sys2Proof/Machine/Step.lean ====
section
/-! DEFINITION. One step of the machine: exactly one agent moves (00_scope.md R10). -/

namespace Sys2Proof.Machine

/-- One step: what the schedule gives, run. -/
def step (s : State) : Host.Outcome State Fault Refusal :=
  match fetch s with
  | .idle t => .next t
  | .reset t => .next (resetStep t)
  | .run i t => exec i t
  | .reject r => .refused r

/-- The table word `w` of `nbits` bits scheduled as the very next step. -/
def State.withFetchWord (s : State) (nbits w : Nat) : State := place s (layOut nbits w)

end Sys2Proof.Machine
end

