-- ==== Sys2Proof/Machine/Driver.lean ====
section
/-! DEFINITION. HOST programs: the pseudo-operations of 40_regaccess.md (R132 to R138) and the reference
sequences of the 4N files, as sequences of the bus operations of this model, and running such a program
along a schedule of the other agents' steps (R10, R81). They are software; they stand here because they fix
the order of bus operations (00_scope.md R4). A sequence is given the parameters (R6): it puts the masks of its
rule where the layout has those bits. -/

namespace Sys2Proof.Machine

/-! ### HOST programs -/

/-- A HOST program: it ends, is refused, reads (and goes on with the value), or writes. -/
inductive HostProg (α : Type) where
  | done (a : α)
  | refuse (r : Refusal)
  | read (i : Instr) (k : Word → HostProg α)
  | write (i : Instr) (k : HostProg α)

namespace HostProg

/-- One program, then another. -/
def andThen {α β : Type} (p : HostProg α) (f : α → HostProg β) : HostProg β :=
  match p with
  | .done a => f a
  | .refuse r => .refuse r
  | .read i k => .read i fun v => (k v).andThen f
  | .write i k => .write i (k.andThen f)

end HostProg

/-- Operations run one after another. -/
def runOps (ops : List Instr) (s : State) : Out :=
  match ops with
  | [] => .next s
  | e :: es =>
    match exec e s with
    | .next t => runOps es t
    | .fault r => .fault r
    | .refused r => .refused r

/-- Run a HOST program; before its k-th bus operation the k-th list of events happens (R10: any number of
steps of other agents between two HOST steps). -/
def HostProg.run {α : Type} (p : HostProg α) (schedule : List (List Instr)) (s : State) :
    OutcomeOf (α × State) :=
  match p with
  | .done a => .next (a, s)
  | .refuse r => .refused r
  | .read i k =>
    match runOps (schedule.headD []) s with
    | .fault r => .fault r
    | .refused r => .refused r
    | .next t =>
      match exec i t with
      | .fault r => .fault r
      | .refused r => .refused r
      | .next t' => (k t'.rdata).run schedule.tail t'
  | .write i k =>
    match runOps (schedule.headD []) s with
    | .fault r => .fault r
    | .refused r => .refused r
    | .next t =>
      match exec i t with
      | .fault r => .fault r
      | .refused r => .refused r
      | .next t' => k.run schedule.tail t'

/-! ### Pseudo-operations (R132 to R138) -/

/-- `read_word` (R132), when the address is an operation's. -/
def readWord (rd : Instr) : HostProg Word := .read rd .done

/-- `write_word` (R133), when the address is an operation's. -/
def writeWord (wr : Instr) : HostProg Unit := .write wr (.done ())

/-- The operation an access at an address is (R71, R105, R132, R133), for given base addresses. -/
def accessAt (p : Params) (base : Blk → Word) (we : Bool) (sz : Width) (addr wdata : Word) :
    Except Reject Instr :=
  match commandAt p base we sz addr with
  | .error r => .error r
  | .ok cmd => (decodeBus p [cmd, wdata]).map Prod.fst

/-- `read_word(address)` (R132) and its 8- and 16-bit forms; an invalid address is refused (R106, R139). -/
def readAt (p : Params) (base : Blk → Word) (sz : Width) (addr : Word) : HostProg Word :=
  match accessAt p base false sz addr 0#32 with
  | .ok i => readWord i
  | .error r => .refuse (refusalOf r)

/-- `write_word(address, value)` (R133) and its 8- and 16-bit forms; an invalid address is refused
(R106, R139). -/
def writeAt (p : Params) (base : Blk → Word) (sz : Width) (addr value : Word) : HostProg Unit :=
  match accessAt p base true sz addr value with
  | .ok i => writeWord i
  | .error r => .refuse (refusalOf r)

/-- A register as software sees it: how it is read and how a value is written. -/
structure RegPort where
  read : HostProg Word
  write : Word → HostProg Unit

namespace RegPort

/-- The 32-bit cell at an address (R134 to R137). -/
def atAddress (p : Params) (base : Blk → Word) (addr : Word) : RegPort :=
  ⟨readAt p base .w32 addr, writeAt p base .w32 addr⟩

/-- A register named by the operations that reach it. -/
def ofInstr (rd : Instr) (wr : Word → Instr) : RegPort := ⟨readWord rd, fun v => writeWord (wr v)⟩

def usartCr1 : RegPort := ofInstr .rdUsartCr1 .wrUsartCr1
def usartIcr : RegPort := ofInstr .rdUsartIcr .wrUsartIcr
def i2cCr1 : RegPort := ofInstr .rdI2cCr1 .wrI2cCr1
def i2cCr2 : RegPort := ofInstr .rdI2cCr2 .wrI2cCr2
def i2cIcr : RegPort := ofInstr .rdI2cIcr .wrI2cIcr
def spiCr1 : RegPort := ofInstr .rdSpiCr1 .wrSpiCr1
def spiCr2 : RegPort := ofInstr .rdSpiCr2 .wrSpiCr2
def nvicIser (r : BitVec 4) : RegPort := ofInstr (.rdNvicIser r) (.wrNvicIser r)

end RegPort

/-- A read and the write-back of what it made of the value: two bus operations (R81). -/
def readModifyWrite (r : RegPort) (f : Word → Word) : HostProg Unit := r.read.andThen fun old => r.write (f old)

/-- `set_bits` (R134). -/
def setBits (r : RegPort) (mask : Word) : HostProg Unit := readModifyWrite r (· ||| mask)

/-- `clear_bits` (R135). -/
def clearBits (r : RegPort) (mask : Word) : HostProg Unit := readModifyWrite r (· &&& ~~~mask)

/-- `read_field` (R136): the mask is right-justified. -/
def readField (r : RegPort) (offset : Nat) (mask : Word) : HostProg Word :=
  r.read.andThen fun old => .done ((old >>> offset) &&& mask)

/-- `width(mask)` (R137): the number of bits up to the highest one set. The rule does not define it; for a mask of 0
(width 0) and one with gaps this is the model's choice (log entry 26). -/
def maskWidth (mask : Word) : Nat := if mask = 0#32 then 0 else mask.toNat.log2 + 1

/-- `old` with `value` in the field of `mask` at `offset` (R137). -/
def withField (offset : Nat) (mask value old : Word) : Word :=
  (old &&& ~~~(mask <<< offset)) ||| ((value &&& mask) <<< offset)

/-- `write_field` (R137): a field past bit 31 is refused. -/
def writeField (r : RegPort) (offset : Nat) (mask value : Word) : HostProg Unit :=
  if 32 < offset + maskWidth mask then .refuse .badCommand else readModifyWrite r (withField offset mask value)

/-- `POLL` with `more` iterations left after this one. -/
def pollLoop (rd : HostProg Word) (mask want : Word) : Nat → HostProg Bool
  | 0 => rd.andThen fun v => .done (v &&& mask == want)
  | more + 1 => rd.andThen fun v => if v &&& mask == want then .done true else pollLoop rd mask want more

/-- `POLL` (R138): one iteration is one bus read; at least one is made. A `bound` of infinity is every
bound (log entry 12). -/
def poll (rd : HostProg Word) (mask want : Word) (bound : Nat) : HostProg Bool :=
  pollLoop rd mask want (bound - 1)

/-- The wait of a reference sequence for a field of a register to have a value; the mask and the value are
those of the default layout, put where the layout has those bits. -/
def waitFor (p : Params) (r : Reg) (rd : Instr) (mask want : Word) (bound : Nat) : HostProg Bool :=
  poll (readWord rd) (toBus p.layout r mask) (toBus p.layout r want) bound

/-! ### USART reference sequences (R153, R186 to R188) -/

/-- The driver's divisor and BRR value (R153); `none` where the divisor does not fit. A baud rate of 0 gives the
divisor 0, which does not: R8 says nothing of a division by 0, the model's choice (log entry 21). -/
def driverBrr (clockKhz baud : Nat) (over8 : Bool) : Option (BitVec 16) :=
  let fck := clockKhz * 1000
  let div := (if over8 then 2 * fck else fck) / baud
  if div < 16 ∨ 2 ^ 16 ≤ div then none
  else
    let d := BitVec.ofNat 16 div
    some (if over8 then (d &&& 0xFFF0#16) ||| ((d &&& 0x000F#16) >>> 1) else d)

/-- `open` (R186). R153 says that the reference sequence refuses a divisor that does not fit; that it does so
before its first bus operation, and for the reason bad_divisor, is the model's choice (log entry 21). -/
def usartOpen (p : Params) (m1 m0 : Bool) (stopCode : BitVec 2) (baud clockKhz : Nat) (over8 : Bool) : HostProg Unit :=
  match driverBrr clockKhz baud over8 with
  | none => .refuse .badDivisor
  | some brr =>
    .write (.wrUsartCr1 0#32) <|
    .write (.wrUsartBrr (toBus p.layout .usartBrr (brr.setWidth 32))) <|
    .write (.wrUsartCr2 (toBus p.layout .usartCr2 ((stopCode.setWidth 32 <<< 12) ||| 0x00800000#32))) <|
    .write (.wrUsartRtor (toBus p.layout .usartRtor (Config.rtoWindow.setWidth 32))) <|
    .write (.wrUsartCr1 (toBus p.layout .usartCr1
      (bitWord 28 m1 ||| bitWord 15 over8 ||| bitWord 12 m0 ||| 0x5#32))) <|
    .done ()

/-- The bytes of `write` (R187), each gated by TXE. -/
def usartPush (p : Params) (patience : Nat) : List Byte → HostProg Bool
  | [] => .done true
  | b :: bs =>
    (waitFor p .usartIsr .rdUsartIsr 0x80#32 0x80#32 patience).andThen fun ok =>
      if ok then .write (.wrUsartTdr (toBus p.layout .usartTdr (b.setWidth 32))) (usartPush p patience bs)
      else .done false

/-- `write` (R187). `patience` bounds each spin: false is a spin that has not ended (log entry 12), or the
Timeout of a redesign (90_conflicts.md C1). -/
def usartWrite (p : Params) (patience : Nat) (bytes : List Byte) : HostProg Bool :=
  (setBits .usartCr1 (toBus p.layout .usartCr1 0x8#32)).andThen fun _ =>
  (usartPush p patience bytes).andThen fun ok =>
    if !ok then .done false
    else (waitFor p .usartIsr .rdUsartIsr 0x40#32 0x40#32 patience).andThen fun ok =>
      if !ok then .done false
      else (clearBits .usartCr1 (toBus p.layout .usartCr1 0x8#32)).andThen fun _ => .done true

/-- The outcomes of `read` (R188) as a tagged result: a count, ERR_IDLE, ERR_LINE. -/
inductive ReadResult where
  | count (n : Nat)
  | errIdle
  | errLine
deriving DecidableEq, Repr

/-- The value `read` returns for a result: the count, or a sentinel (R6, R188). -/
def ReadResult.value : ReadResult → Int
  | .count n => n
  | .errIdle => Config.errIdle
  | .errLine => Config.errLine

/-- What one byte of `read` waits for. -/
inductive ByteReady where
  | ready
  | errIdle
  | errLine
deriving DecidableEq, Repr

/-- What one read of ISR tells `read` (R188): FE, ORE or IDLE first, then RTOF, then RXNE. -/
def readVerdict (isr : Word) : Option ByteReady :=
  if isr &&& 0x1A#32 != 0#32 then some .errLine
  else if isr &&& 0x800#32 != 0#32 then some .errIdle
  else if isr &&& 0x20#32 != 0#32 then some .ready
  else none

/-- The flag loop of `read` (R188), with `more` iterations left after this one. -/
def usartAwait (p : Params) : Nat → HostProg ByteReady
  | 0 => .read .rdUsartIsr fun s => .done ((readVerdict (fromBus p.layout .usartIsr s)).getD .errIdle)
  | more + 1 => .read .rdUsartIsr fun s =>
    match readVerdict (fromBus p.layout .usartIsr s) with
    | some w => .done w
    | none => usartAwait p more

/-- The bytes of `read` (R188): `left` are still to store, `got` are stored (newest first). -/
def usartReadLoop (p : Params) (terminator : Byte) : Nat → List Byte → HostProg (ReadResult × List Byte)
  | 0, got => .done (.count got.length, got.reverse)
  | left + 1, got =>
    (usartAwait p (Config.ftBound - 1)).andThen fun w =>
      match w with
      | .errLine => .done (.errLine, got.reverse)
      | .errIdle => .done (.errIdle, got.reverse)
      | .ready =>
        .read .rdUsartRdr fun c =>
          let b : Byte := (fromBus p.layout .usartRdr c).setWidth 8
          if terminator ≠ 0#8 ∧ b = terminator then .done (.count (got.length + 1), (b :: got).reverse)
          else usartReadLoop p terminator left (b :: got)

/-- `read` (R188) into a buffer of `len` bytes: the result and the bytes stored. -/
def usartRead (p : Params) (len : Nat) (terminator : Byte) : HostProg (ReadResult × List Byte) :=
  .write (.wrUsartIcr (toBus p.layout .usartIcr 0x81A#32)) (usartReadLoop p terminator len [])

/-! ### I2C reference sequences (R233 to R237) -/

/-- `open` (R233). A tuple of TIMINGR's fields has no bits 27:24, but the parameter is a whole word: bits 27:24 of it
are left out of what is written, where R224 would refuse them; the model's choice (log entry 29). -/
def i2cOpen (p : Params) (clock mode : Nat) : HostProg Unit :=
  (clearBits .i2cCr1 (toBus p.layout .i2cCr1 0x1#32)).andThen fun _ =>
    .write (.wrI2cTimingr (toBus p.layout .i2cTimingr
      ((Config.i2cTimingTable clock mode).getD Config.i2cTimingDefault))) <|
    setBits .i2cCr1 (toBus p.layout .i2cCr1 0x1#32)

/-- The CR2 value `setup` writes over `old` (R234). The rule gives no range of `address`: it has 10 bits here and
`address << 1` is cut to 10 bits, so bit 9 of a 7-bit address is dropped without an error; the model's choice (log
entry 28). -/
def i2cSetupWord (old : Word) (address : BitVec 10) (is10bit headerOnly isWrite : Bool) (count : Byte) :
    Word :=
  (old &&& (I2cCr2.startBit ||| I2cCr2.stopBit)) |||
    ((if is10bit then address else address <<< 1).setWidth 32) |||
    bitWord 10 (!isWrite) ||| bitWord 11 is10bit ||| bitWord 12 headerOnly ||| (count.setWidth 32 <<< 16)

/-- `setup` (R234); a count above 255 is a driver error (`none`). The rule does not say when it is seen: that it is
seen before the read of CR2 too, with no bus operation issued, is the model's choice (log entry 27). -/
def i2cSetup (p : Params) (address : BitVec 10) (is10bit headerOnly isWrite : Bool) (count : Nat) :
    HostProg (Option Unit) :=
  if 255 < count then .done none
  else .read .rdI2cCr2 fun old =>
    .write (.wrI2cCr2 (toBus p.layout .i2cCr2 (i2cSetupWord (fromBus p.layout .i2cCr2 old)
      address is10bit headerOnly isWrite (BitVec.ofNat 8 count)))) <|
    .done (some ())

/-- `start` and `stop` (R235). -/
def i2cStart (p : Params) : HostProg Bool :=
  (setBits .i2cCr2 (toBus p.layout .i2cCr2 0x2000#32)).andThen fun _ =>
    waitFor p .i2cCr2 .rdI2cCr2 0x2000#32 0#32 Config.ftBound
def i2cStop (p : Params) : HostProg Bool :=
  (setBits .i2cCr2 (toBus p.layout .i2cCr2 0x4000#32)).andThen fun _ =>
    waitFor p .i2cCr2 .rdI2cCr2 0x4000#32 0#32 Config.ftBound

/-- `write` (R236). -/
def i2cWrite (p : Params) : List Byte → HostProg Bool
  | [] => .done true
  | b :: bs =>
    (waitFor p .i2cIsr .rdI2cIsr 0x1#32 0x1#32 Config.ftBound).andThen fun ok =>
      if ok then .write (.wrI2cTxdr (toBus p.layout .i2cTxdr (b.setWidth 32))) (i2cWrite p bs) else .done false

/-- `read` (R236): `none` is failure; the bytes moved before it stay moved. -/
def i2cRead (p : Params) : Nat → List Byte → HostProg (Option (List Byte))
  | 0, got => .done (some got.reverse)
  | n + 1, got =>
    (waitFor p .i2cIsr .rdI2cIsr 0x4#32 0x4#32 Config.ftBound).andThen fun ok =>
      if ok then .read .rdI2cRxdr fun v => i2cRead p n ((fromBus p.layout .i2cRxdr v).setWidth 8 :: got)
      else .done none

/-- The wait for transfer-complete (R236). -/
def i2cWaitComplete (p : Params) : HostProg Bool :=
  waitFor p .i2cIsr .rdI2cIsr 0x40#32 0x40#32 Config.ftBound

/-- Go on only after success (R237: "any failing step returns failure at once"). -/
def HostProg.onSuccess (p : HostProg Bool) (next : HostProg Bool) : HostProg Bool :=
  p.andThen fun ok => if ok then next else .done false

/-- `std_write` (R237). -/
def i2cStdWrite (p : Params) (dev : BitVec 10) (reg : Byte) (data : List Byte) : HostProg Bool :=
  (i2cSetup p dev false false true (1 + data.length)).andThen fun set =>
    match set with
    | none => .done false
    | some () =>
      (i2cStart p).onSuccess <| (i2cWrite p (reg :: data)).onSuccess <|
      (i2cWaitComplete p).onSuccess (i2cStop p)

/-- `std_read` (R237): the bytes read, or `none`. -/
def i2cStdRead (p : Params) (dev : BitVec 10) (reg : Byte) (n : Nat) : HostProg (Option (List Byte)) :=
  (i2cSetup p dev false false true 1).andThen fun _ =>
  ((i2cStart p).onSuccess <| (i2cWrite p [reg]).onSuccess (i2cWaitComplete p)).andThen fun ok =>
    if !ok then .done none
    else (i2cSetup p dev false false false n).andThen fun set =>
      match set with
      | none => .done none
      | some () =>
        (i2cStart p).andThen fun ok =>
          if !ok then .done none
          else (i2cRead p n []).andThen fun got =>
            match got with
            | none => .done none
            | some bytes => (i2cStop p).andThen fun ok => .done (if ok then some bytes else none)

/-! ### SPI reference sequences (R275 to R279) -/

/-- `open` (R275): master, SSI, SSM and CRCEN are the fixed policy. -/
def spiOpen (p : Params) (cpha cpol lsbfirst : Bool) (br : BitVec 3) (ds : BitVec 4) : HostProg Unit :=
  .write (.wrSpiCr1 (toBus p.layout .spiCr1
    (bitWord 0 cpha ||| bitWord 1 cpol ||| (br.setWidth 32 <<< 3) ||| bitWord 7 lsbfirst ||| 0x2304#32))) <|
  .write (.wrSpiCr2 (toBus p.layout .spiCr2
    ((ds.setWidth 32 <<< 8) ||| bitWord 12 (decide (ds.toNat + 1 ≤ 8))))) <|
  .done ()

/-- `enable` (R276). -/
def spiEnable (p : Params) : HostProg Unit := setBits .spiCr1 (toBus p.layout .spiCr1 0x40#32)

/-- `disable` (R276): both waits, in that order; `patience` as in `usartWrite`. -/
def spiDisable (p : Params) (patience : Nat) : HostProg Bool :=
  (waitFor p .spiSr .rdSpiSr 0x1800#32 0#32 patience).onSuccess <|
  (waitFor p .spiSr .rdSpiSr 0x80#32 0#32 patience).onSuccess <|
  (clearBits .spiCr1 (toBus p.layout .spiCr1 0x40#32)).andThen fun _ => .done true

/-- The level wait of `write` (R277): the error flags read are advisory only. -/
def spiAwaitRoom (p : Params) : Nat → HostProg Bool
  | 0 => .read .rdSpiSr fun s => .done (fromBus p.layout .spiSr s &&& 0x1800#32 != 0x1800#32)
  | more + 1 => .read .rdSpiSr fun s =>
    if fromBus p.layout .spiSr s &&& 0x1800#32 != 0x1800#32 then .done true else spiAwaitRoom p more

/-- `write` (R277). -/
def spiWrite (p : Params) (patience : Nat) : List Byte → HostProg Bool
  | [] => .done true
  | b :: bs =>
    (spiAwaitRoom p (patience - 1)).andThen fun ok =>
      if ok then .write (.wr8SpiDr b) (spiWrite p patience bs) else .done false

/-- The loop of `read` (R278), with `left` bytes still to read and `got` read (newest first). -/
def spiReadLoop (p : Params) : Nat → List Byte → HostProg (List Byte)
  | 0, got => .done got.reverse
  | left + 1, got =>
    (waitFor p .spiSr .rdSpiSr 0x1#32 0x1#32 Config.ftBound).andThen fun ok =>
      if ok then .read .rd8SpiDr fun v => spiReadLoop p left (v.setWidth 8 :: got) else .done got.reverse

/-- `read` (R278) into a buffer of `bufferLen` bytes: the bytes actually read, at most as many as the smaller of
the buffer's and the expected length. -/
def spiRead (p : Params) (bufferLen expectedLength : Nat) : HostProg (List Byte) :=
  spiReadLoop p (min bufferLen expectedLength) []

/-- `write_byte` (R279). -/
def spiWriteByte (p : Params) (b : Byte) : HostProg Bool :=
  (waitFor p .spiSr .rdSpiSr 0x2#32 0x2#32 Config.ftBound).andThen fun ok =>
    if ok then .write (.wr8SpiDr b) (.done true) else .done false

/-! ### NVIC reference sequences (R307, R309) -/

/-- `enable` (R309): `none` is the explicit out-of-range error, and no bus operation is issued. -/
def nvicEnable (p : Params) (line : Nat) : HostProg (Option Unit) :=
  if p.nLines ≤ line then .done none
  else .write (.wrNvicIser (BitVec.ofNat 4 (line / 32)) (1#32 <<< (line % 32))) (.done (some ()))

/-- `set_priority` (R309). -/
def nvicSetPriority (p : Params) (line : Nat) (priority subPriority : Byte) : HostProg (Option Unit) :=
  if p.nLines ≤ line then .done none
  else .write (.wrNvicIpr (BitVec.ofNat 9 line) (priorityByte p priority subPriority)) (.done (some ()))

end Sys2Proof.Machine
end

