-- ==== Sys2Proof/Safety.lean ====
section
/-! DEFINITION. What counts as a safe machine, in the terms the statements use: the invariant of each
sub-block, which sub-block an operation belongs to, quiescence (70_reset_and_hazards.md R381), and the words
of the spec's frame formats. -/

namespace Sys2Proof.Machine

/-! ### Which bits a word sets -/

/-- Every bit `v` sets is one of `bits`: none is reserved (R20). -/
def SetsOnly (v : Word) (bits : List Nat) : Prop := ∀ j, j ∉ bits → v.getLsbD j = false

/-! ### Which parameters are a machine's (R6) -/

/-- A layout that can be decoded: the offsets of a window's registers are aligned, inside it and different, and
each defined bit has a place of its own in the 32 bits of the bus word (R20, R73, R101). -/
structure LayoutValid (l : Layout) : Prop where
  aligned : ∀ r, (l.of r).off.toNat % 4 = 0
  inWindow : ∀ r, (l.of r).off.toNat < 0x400
  apart : ∀ r q, r.blk = q.blk → (l.of r).off = (l.of q).off → r = q
  onePlace : ∀ r, (l.of r).pos.length = r.bits.length
  ownPlace : ∀ r, (l.of r).pos.Nodup
  inWord : ∀ r, ∀ j ∈ (l.of r).pos, j < 32

/-- Parameters that fit together and fit the encoding: whole enable registers, as many lines and registers as an
index can name (R102), and no more priority bits than a byte has. -/
structure ParamsValid (p : Params) : Prop where
  wholeRegisters : p.nLines = 32 * p.nIser
  iserField : p.nIser ≤ 16
  prioBits : p.prioBits ≤ 8
  layout : LayoutValid p.layout

/-! ### Invariants -/

/-- The level of the bit the transmit frame machine has on the line (R154 to R159). -/
def UsartTx.level (x : UsartTx) : Bool :=
  match x.state with
  | .idle | .stop => true
  | .start => false
  | .data => x.tsr.getLsbD x.bit

/-- What holds of the USART in every reachable state: its registers hold no reserved bit or value, the
divisor is valid while UE = 1 (R170), every counter stays inside its width (R29, R330), the machines rest
while they are off (R160, R166, R185, R351; log entry 22), TC = 1 implies an idle transmitter with TXE = 1 (R159), and the TX
pin carries the bit the transmitter is at (R154). Of a torn transmitter only the widths hold, and its fault is
recorded (R9; log entry 14). -/
structure UsartInv (u : Usart) : Prop where
  cr1Reserved : SetsOnly u.cr1 [0, 2, 3, 12, 15, 28]
  cr2Reserved : SetsOnly u.cr2 [12, 13, 23]
  lengthLegal : ¬(UsartCr1.m1 u.cr1 = true ∧ UsartCr1.m0 u.cr1 = true)
  stopLegal : UsartCr2.stop u.cr2 = 0b00#2 ∨ UsartCr2.stop u.cr2 = 0b10#2
  divisorValid : UsartCr1.ue u.cr1 = true → 16 ≤ u.div ∧ (UsartCr1.over8 u.cr1 = true → u.brr.getLsbD 3 = false)
  accBelowDivisor : UsartCr1.ue u.cr1 = true → u.brgAcc < u.div
  offWhenDisabled : UsartCr1.ue u.cr1 = false →
    u.brgAcc = 0 ∧ u.tx = .reset ∧ u.txPin = true ∧ u.rx = .reset ∧ u.isr.txe = true ∧ u.isr.rxne = false ∧
      u.torn = false
  tornIsRecorded : u.torn = true → u.fault = some .txStoppedInFrame
  completeIsIdle : u.torn = false → u.isr.tc = true → u.tx.state = .idle ∧ u.isr.txe = true
  txRestsWhenOff : u.torn = false → UsartCr1.te u.cr1 = false → u.tx.state = .idle
  rxRestsWhenOff : UsartCr1.re u.cr1 = false → u.rx = .reset
  txOsc : u.tx.osc < u.nOs
  txBit : u.tx.bit < u.nData
  txStop : u.tx.stop < u.nStop
  rxOsc : u.rx.osc < u.nOs
  rxStopOsc : u.rx.state = .stop → u.rx.osc < u.nOs / 2
  rxBit : u.rx.bit < u.nData
  idleCnt : u.rx.idleCnt ≤ u.nFrame * u.nOs
  rtoOsc : u.rx.rtoOsc < u.nOs
  rtoCnt : u.rx.rtoCnt < 2 ^ 24
  rtoRuns : u.rx.rtoRun = true → u.rx.rtoCnt + 1 < 2 ^ 24
  txPinLevel : u.torn = false → u.txPin = u.tx.level

/-- What holds of the I2C in every reachable state: no reserved bit, START and STOP never both 1 (R222),
everything idle while PE = 0 (R232, R351; log entry 22), TXIS and BUSY mean what R205 says of them, TC = 1 only in I_TC, and there
unless START or STOP has been asked for (R205, R222; log entry 17), a byte is left to move while a transfer
waits for one (R211 to R213), and the lines are as R204 says. -/
structure I2cInv (i : I2c) : Prop where
  cr2Reserved : SetsOnly i.cr2 (bitsFrom 0 14 ++ bitsFrom 16 25)
  timingrReserved : SetsOnly i.timingr (bitsFrom 0 23 ++ bitsFrom 28 31)
  notStartAndStop : ¬(I2cCr2.start i.cr2 = true ∧ I2cCr2.stop i.cr2 = true)
  idleWhenDisabled : i.pe = false →
    i.phase = .idle ∧ i.remaining = 0 ∧ i.shift = 0#8 ∧ I2cCr2.start i.cr2 = false ∧ I2cCr2.stop i.cr2 = false ∧ i.isr = .reset
  completeOnlyInTc : i.isr.tc = true → i.phase = .tc
  completeUnlessAsked : i.phase = .tc →
    i.isr.tc = true ∨ I2cCr2.start i.cr2 = true ∨ I2cCr2.stop i.cr2 = true
  txisAsksForByte : i.isr.txis = true ↔ i.phase = .txWait ∧ i.isr.txe = true
  busyOutsideIdle : i.isr.busy = true ↔ i.phase ≠ .idle
  startHeldInAddr : i.phase = .addr → I2cCr2.start i.cr2 = true
  remainingBound : i.remaining ≤ 255
  byteLeft : i.phase = .txWait ∨ i.phase = .rxByte → 0 < i.remaining
  releasedLines : i.phase = .idle ∨ i.phase = .lost → i.scl = true ∧ i.sda = true
  heldInTc : i.phase = .tc → i.scl = false
  heldForTxdr : i.phase = .txWait → i.isr.txe = true → i.scl = false
  heldForRxdr : i.phase = .rxByte → i.isr.rxne = true → i.scl = false

/-- What holds of the SPI in every reachable state: no reserved bit, never slave while enabled (R270), the
frame width legal (R37), the FIFOs within their four bytes and, for wide frames, in whole frames (R251), the
shifter's counter inside the frame, and the clearing sequences only of flags that are set (R268). Of a torn
shifter only the widths hold, and its fault is recorded (R9; log entry 14). -/
structure SpiInv (p : Spi) : Prop where
  cr1Reserved : SetsOnly p.cr1 (bitsFrom 0 9 ++ [11, 13])
  cr2Reserved : SetsOnly p.cr2 (bitsFrom 8 12)
  masterWhenEnabled : SpiCr1.spe p.cr1 = true → SpiCr1.mstr p.cr1 = true
  widthLegal : 4 ≤ p.frameBits
  txfBound : p.txf.length ≤ 4
  rxfBound : p.rxf.length ≤ 4
  wideFrames : p.frameBytes = 2 → p.txf.length % 2 = 0 ∧ p.rxf.length % 2 = 0
  cntWidth : p.sh.cnt ≤ 16
  tornIsRecorded : p.torn = true → p.fault = some .disabledWhileBusy
  busyOnlyEnabled : p.torn = false → p.sh.busy = true → SpiCr1.spe p.cr1 = true
  cntInFrame : p.torn = false → p.sh.busy = true → p.sh.cnt < p.frameBits
  cntAtRest : p.torn = false → p.sh.busy = false → p.sh.cnt = 0
  txInFrame : p.torn = false → p.sh.busy = true → ∀ j, p.frameBits ≤ j → p.sh.tx.getLsbD j = false
  rxInFrame : p.torn = false → p.sh.busy = true → ∀ j, p.frameBits ≤ j → p.sh.rx.getLsbD j = false
  waveOfFrame : p.torn = false → p.sh.busy = true → p.wave.length = 2 * p.sh.cnt
  ovrSequence : p.ovrSeq = true → p.ovr = true
  modfSequence : p.modfSeq = true → p.modf = true
  clockAtRest : SpiCr1.spe p.cr1 = false → p.sck = SpiCr1.cpol p.cr1

/-- The low bits of every priority cell read as zero (R42). -/
structure NvicInv (p : Params) (v : Nvic) : Prop where
  lowBitsZero : ∀ n j, j < 8 - p.prioBits → (v.priority n).getLsbD j = false

/-- The whole machine's invariant. -/
structure Inv (s : State) : Prop where
  usart : UsartInv s.usart
  i2c : I2cInv s.i2c
  spi : SpiInv s.spi
  nvic : NvicInv s.params s.nvic

/-! ### Which sub-block an operation belongs to (R87) -/

/-- The four sub-blocks (R1). -/
inductive SubBlock where
  | usart
  | i2c
  | spi
  | nvic
deriving DecidableEq, Repr

/-- The sub-block an operation acts on. -/
def subBlock : Instr → SubBlock
  | .rdUsartCr1 | .wrUsartCr1 _ | .rdUsartCr2 | .wrUsartCr2 _ | .rdUsartBrr | .wrUsartBrr _
  | .rdUsartRtor | .wrUsartRtor _ | .rdUsartIsr | .rdUsartIcr | .wrUsartIcr _ | .rdUsartRdr
  | .rdUsartTdr | .wrUsartTdr _ | .evUsartClk | .evUsartTick _ => .usart
  | .rdI2cCr1 | .wrI2cCr1 _ | .rdI2cCr2 | .wrI2cCr2 _ | .rdI2cTimingr | .wrI2cTimingr _ | .rdI2cIsr
  | .rdI2cIcr | .wrI2cIcr _ | .rdI2cRxdr | .rdI2cTxdr | .wrI2cTxdr _ | .evI2cStart | .evI2cAddr _ _
  | .evI2cTxByte _ _ | .evI2cRxByte _ | .evI2cStop | .evI2cBusFree => .i2c
  | .rdSpiCr1 | .wrSpiCr1 _ | .rdSpiCr2 | .wrSpiCr2 _ | .rdSpiSr | .rd8SpiDr | .rd16SpiDr
  | .wr8SpiDr _ | .wr16SpiDr _ | .evSpiLoad | .evSpiBit _ | .evSpiModf _ => .spi
  | .rdNvicIser _ | .wrNvicIser _ _ | .rdNvicIpr _ | .wrNvicIpr _ _ | .evNvicPend _ _ => .nvic

/-- The reads with no side effect (R76): every read but those of USART.RDR, I2C.RXDR, SPI.DR, SPI.SR. -/
def plainRead : Instr → Bool
  | .rdUsartCr1 | .rdUsartCr2 | .rdUsartBrr | .rdUsartRtor | .rdUsartIsr | .rdUsartIcr | .rdUsartTdr => true
  | .rdI2cCr1 | .rdI2cCr2 | .rdI2cTimingr | .rdI2cIsr | .rdI2cIcr | .rdI2cTxdr => true
  | .rdSpiCr1 | .rdSpiCr2 => true
  | .rdNvicIser _ | .rdNvicIpr _ => true
  | .wrUsartCr1 _ | .wrUsartCr2 _ | .wrUsartBrr _ | .wrUsartRtor _ | .wrUsartIcr _ | .rdUsartRdr
  | .wrUsartTdr _ | .wrI2cCr1 _ | .wrI2cCr2 _ | .wrI2cTimingr _ | .wrI2cIcr _ | .rdI2cRxdr
  | .wrI2cTxdr _ | .wrSpiCr1 _ | .wrSpiCr2 _ | .rdSpiSr | .rd8SpiDr | .rd16SpiDr | .wr8SpiDr _
  | .wr16SpiDr _ | .wrNvicIser _ _ | .wrNvicIpr _ _ | .evUsartClk | .evUsartTick _ | .evI2cStart
  | .evI2cAddr _ _ | .evI2cTxByte _ _ | .evI2cRxByte _ | .evI2cStop | .evI2cBusFree | .evSpiLoad
  | .evSpiBit _ | .evSpiModf _ | .evNvicPend _ _ => false

/-- The events of the block's own agents and of the I2C peer, that is all but NVIC.PEND (R107). -/
def agentEvent : Instr → Bool
  | .evUsartClk | .evUsartTick _ | .evI2cStart | .evI2cAddr _ _ | .evI2cTxByte _ _ | .evI2cRxByte _
  | .evI2cStop | .evI2cBusFree | .evSpiLoad | .evSpiBit _ | .evSpiModf _ => true
  | .rdUsartCr1 | .wrUsartCr1 _ | .rdUsartCr2 | .wrUsartCr2 _ | .rdUsartBrr | .wrUsartBrr _
  | .rdUsartRtor | .wrUsartRtor _ | .rdUsartIsr | .rdUsartIcr | .wrUsartIcr _ | .rdUsartRdr
  | .rdUsartTdr | .wrUsartTdr _ | .rdI2cCr1 | .wrI2cCr1 _ | .rdI2cCr2 | .wrI2cCr2 _ | .rdI2cTimingr
  | .wrI2cTimingr _ | .rdI2cIsr | .rdI2cIcr | .wrI2cIcr _ | .rdI2cRxdr | .rdI2cTxdr | .wrI2cTxdr _
  | .rdSpiCr1 | .wrSpiCr1 _ | .rdSpiCr2 | .wrSpiCr2 _ | .rdSpiSr | .rd8SpiDr | .rd16SpiDr
  | .wr8SpiDr _ | .wr16SpiDr _ | .rdNvicIser _ | .wrNvicIser _ _ | .rdNvicIpr _ | .wrNvicIpr _ _
  | .evNvicPend _ _ => false

/-- The precondition of an event (R10, R107): its agent's step is enabled. The other operations are
always enabled. -/
def eventEnabled (s : State) : Instr → Bool
  | .evUsartClk | .evUsartTick _ => UsartCr1.ue s.usart.cr1
  | .evI2cStart => s.i2c.startEnabled
  | .evI2cAddr _ _ => decide (s.i2c.phase = .addr)
  | .evI2cTxByte _ _ => s.i2c.txEnabled
  | .evI2cRxByte _ => s.i2c.rxEnabled
  | .evI2cStop => s.i2c.stopEnabled
  | .evI2cBusFree => decide (s.i2c.phase = .lost)
  | .evSpiLoad => s.spi.loadEnabled
  | .evSpiBit _ => s.spi.bitEnabled
  | .evSpiModf _ => s.spi.running
  | .rdUsartCr1 | .wrUsartCr1 _ | .rdUsartCr2 | .wrUsartCr2 _ | .rdUsartBrr | .wrUsartBrr _
  | .rdUsartRtor | .wrUsartRtor _ | .rdUsartIsr | .rdUsartIcr | .wrUsartIcr _ | .rdUsartRdr
  | .rdUsartTdr | .wrUsartTdr _ | .rdI2cCr1 | .wrI2cCr1 _ | .rdI2cCr2 | .wrI2cCr2 _ | .rdI2cTimingr
  | .wrI2cTimingr _ | .rdI2cIsr | .rdI2cIcr | .wrI2cIcr _ | .rdI2cRxdr | .rdI2cTxdr | .wrI2cTxdr _
  | .rdSpiCr1 | .wrSpiCr1 _ | .rdSpiCr2 | .wrSpiCr2 _ | .rdSpiSr | .rd8SpiDr | .rd16SpiDr
  | .wr8SpiDr _ | .wr16SpiDr _ | .rdNvicIser _ | .wrNvicIser _ _ | .rdNvicIpr _ | .wrNvicIpr _ _
  | .evNvicPend _ _ => true

/-! ### Runs and the law on their schedule (R10) -/

/-- HOST's program goes on: what it issues comes after what it has still to issue (R78). A program that never ends,
such as an unbounded POLL (R187), issues without end. -/
def State.issued (t : State) (more : List Word) : State := { t with hostStream := t.hostStream ++ more }

/-- One step: HOST's next operation, an event whose precondition holds, or (no operation) the reset input (R350);
and whatever HOST's program then goes on to issue, which may depend on what it has read. -/
def Moved (s : State) (o : Option Instr) (t : State) : Prop :=
  ∃ (u : State) (more : List Word), t = u.issued more ∧
    match o with
    | none => u = resetStep s
    | some i =>
      (∃ rest, decodeBus s.params s.hostStream = .ok (i, rest) ∧ exec i { s with hostStream := rest } = .next u) ∨
      ((∃ bytes, encode s.params.layout i = .event bytes) ∧ eventEnabled s i = true ∧ exec i s = .next u)

/-- An infinite run: the states it goes through and what leads to the next. -/
structure Run (σ : Nat → State) (op : Nat → Option Instr) : Prop where
  moved : ∀ n, Moved (σ n) (op n) (σ (n + 1))

/-- The steps of the agents that fairness speaks of. A clock cycle and a tick are the one step of the USART's
agents; ENV is under no law (R218: I_LOST "needs ENV"). -/
inductive AgentStep where
  | host
  | usart
  | i2cStart
  | i2cAddr
  | i2cTxByte
  | i2cRxByte
  | i2cStop
  | spiLoad
  | spiBit
  | spiModf
deriving DecidableEq, Repr

/-- The step is enabled. -/
def AgentStep.enabled (s : State) : AgentStep → Bool
  | .host => !s.hostStream.isEmpty
  | .usart => UsartCr1.ue s.usart.cr1
  | .i2cStart => s.i2c.startEnabled
  | .i2cAddr => decide (s.i2c.phase = .addr)
  | .i2cTxByte => s.i2c.txEnabled
  | .i2cRxByte => s.i2c.rxEnabled
  | .i2cStop => s.i2c.stopEnabled
  | .spiLoad => s.spi.loadEnabled
  | .spiBit => s.spi.bitEnabled
  | .spiModf => s.spi.running

/-- The agent's step that an operation is; none for a step of ENV. -/
def agentStep : Instr → Option AgentStep
  | .evUsartClk | .evUsartTick _ => some .usart
  | .evI2cStart => some .i2cStart
  | .evI2cAddr _ _ => some .i2cAddr
  | .evI2cTxByte _ _ => some .i2cTxByte
  | .evI2cRxByte _ => some .i2cRxByte
  | .evI2cStop => some .i2cStop
  | .evSpiLoad => some .spiLoad
  | .evSpiBit _ => some .spiBit
  | .evSpiModf _ => some .spiModf
  | .evI2cBusFree | .evNvicPend _ _ => none
  | .rdUsartCr1 | .wrUsartCr1 _ | .rdUsartCr2 | .wrUsartCr2 _ | .rdUsartBrr | .wrUsartBrr _
  | .rdUsartRtor | .wrUsartRtor _ | .rdUsartIsr | .rdUsartIcr | .wrUsartIcr _ | .rdUsartRdr
  | .rdUsartTdr | .wrUsartTdr _ | .rdI2cCr1 | .wrI2cCr1 _ | .rdI2cCr2 | .wrI2cCr2 _ | .rdI2cTimingr
  | .wrI2cTimingr _ | .rdI2cIsr | .rdI2cIcr | .wrI2cIcr _ | .rdI2cRxdr | .rdI2cTxdr | .wrI2cTxdr _
  | .rdSpiCr1 | .wrSpiCr1 _ | .rdSpiCr2 | .wrSpiCr2 _ | .rdSpiSr | .rd8SpiDr | .rd16SpiDr
  | .wr8SpiDr _ | .wr16SpiDr _ | .rdNvicIser _ | .wrNvicIser _ _ | .rdNvicIpr _ | .wrNvicIpr _ _ => some .host

/-- Weak fairness, "the only law on the schedule": an agent whose step stays enabled is eventually run. -/
def WeaklyFair (σ : Nat → State) (op : Nat → Option Instr) : Prop :=
  ∀ (a : AgentStep) (n : Nat), (∀ m, n ≤ m → a.enabled (σ m) = true) →
    ∃ m, n ≤ m ∧ (op m).bind agentStep = some a

/-! ### Quiescence (R381) -/

/-- Nothing the block has been given to send is still under way (R381). -/
def quiescent (s : State) : Bool :=
  (decide (s.usart.tx.state = .idle) &&
    (s.usart.isr.txe || !UsartCr1.te s.usart.cr1 || !UsartCr1.ue s.usart.cr1)) &&
  !s.i2c.seqEnabled && !s.spi.loadEnabled && !s.spi.bitEnabled

/-! ### Frames on the USART line (R154) -/

/-- The level of bit time `j` of the frame that carries `c`: a start bit at 0, `nData` data bits least
significant first, then stop bits at 1 (R154). -/
def frameLevel (nData : Nat) (c : BitVec 9) (j : Nat) : Bool :=
  if j = 0 then false else if j ≤ nData then c.getLsbD (j - 1) else true

/-- The levels of `rx_pin` at the ticks of a frame, up to the middle of its first stop bit, which has the
level `stop` (R161, R165). -/
def frameTicks (nOs nData : Nat) (c : BitVec 9) (stop : Bool) : List Bool :=
  (List.range (nOs * (1 + nData) + nOs / 2 + 1)).map fun k =>
    if k / nOs ≤ nData then frameLevel nData c (k / nOs) else stop

/-- The ticks with these levels. -/
def ticks (levels : List Bool) : List Instr := levels.map .evUsartTick

/-- No character is delivered and no error of delivery is recorded: RDR and the flags of R165 are as before. -/
def SameDelivery (u u' : Usart) : Prop :=
  u'.rdr = u.rdr ∧ u'.isr.rxne = u.isr.rxne ∧ u'.isr.fe = u.isr.fe ∧ u'.isr.ore = u.isr.ore

/-- The transmitter's flags are as before. -/
def SameTxFlags (u u' : Usart) : Prop := u'.isr.txe = u.isr.txe ∧ u'.isr.tc = u.isr.tc

/-! ### SPI frames (R261) -/

/-- The bit of an `n`-bit frame that is exchanged in the k-th SCK period (R261). -/
def exchangedBit (lsbFirst : Bool) (n k : Nat) : Nat := if lsbFirst then k else n - 1 - k

end Sys2Proof.Machine
end

