-- ==== Sys2Proof/Certificates/Slice0/Obligations.lean ====
section
/-! DEFINITION. The statements for the provers, in the order of OBLIGATIONS.json. Each docstring names the
rule of the spec it formalises, or the log entry of the model's own choice it rests on. -/

section

open Sys2Proof Sys2Proof.Machine

/-! ### Encoding (30_encoding.md) -/

/-- Decoding what the encoder wrote gives the operation back, whatever follows it in the stream: for every
operation whose NVIC index is in range, with every operand at every value, and for every layout that can be
decoded (log entry 2). -/
def Obligations.DecodeOfEncode : Prop :=
  ∀ p : Params, ParamsValid p → ∀ i : Instr, i.wf p = true →
    (∀ words, encode p.layout i = .bus words → ∀ rest, decodeBus p (words ++ rest) = .ok (i, rest)) ∧
    (∀ bytes, encode p.layout i = .event bytes → ∀ rest, decodeEvent p (bytes ++ rest) = .ok (i, rest))

/-- Whatever decodes is in range and was encoded by exactly the words taken from the stream: no operation
has two encodings. -/
def Obligations.EncodeOfDecode : Prop :=
  ∀ p : Params,
    (∀ words i rest, decodeBus p words = .ok (i, rest) →
      i.wf p = true ∧ ∃ used, encode p.layout i = .bus used ∧ words = used ++ rest) ∧
    (∀ bytes i rest, decodeEvent p bytes = .ok (i, rest) →
      i.wf p = true ∧ ∃ used, encode p.layout i = .event used ∧ bytes = used ++ rest)

/-- R105: the six steps of the decoding algorithm, and that no two rows match one command word. The class of
a word no row matches is `classify`'s (R106; the order of its tests is log entry 4). -/
def Obligations.DecodeFollowsTheRowTable : Prop :=
  ∀ p : Params, ParamsValid p →
  ((busRows p.layout).Pairwise fun a b => ∀ cmd, ¬(a.covers cmd = true ∧ b.covers cmd = true)) ∧
  ∀ (cmd : Word) (rest : List Word),
    (cmd.extractLsb' 16 13 ≠ 0#13 ∨ cmd.extractLsb' 29 2 = 0b11#2 →
      decodeBus p (cmd :: rest) = .error .badCommand) ∧
    (cmd.extractLsb' 16 13 = 0#13 → cmd.extractLsb' 29 2 ≠ 0b11#2 →
      ((∀ row ∈ busRows p.layout, row.covers cmd = false) →
        decodeBus p (cmd :: rest) = .error (classify p cmd)) ∧
      ∀ row ∈ busRows p.layout, row.covers cmd = true →
        ((row.build cmd 0#32).wf p = false → decodeBus p (cmd :: rest) = .error .indexOutOfRange) ∧
        ((row.build cmd 0#32).wf p = true → cmd.getLsbD 31 = false →
          decodeBus p (cmd :: rest) = .ok (row.build cmd 0#32, rest)) ∧
        ((row.build cmd 0#32).wf p = true → cmd.getLsbD 31 = true → ∀ wdata : Word,
          (wdata.toNat < 2 ^ (8 * 2 ^ (cmd.extractLsb' 29 2).toNat) →
            decodeBus p (cmd :: wdata :: rest) = .ok (row.build cmd wdata, rest)) ∧
          (2 ^ (8 * 2 ^ (cmd.extractLsb' 29 2).toNat) ≤ wdata.toNat →
            decodeBus p (cmd :: wdata :: rest) = .error .badCommand)))

/-- The refused command words of R106, class by class, reads and writes of every width: a write of a read-only
register; an admitted register at a width it does not admit (R74); a misaligned access (R73); an offset at
which no register is defined (R83); an NVIC index past the last (R307); an offset past the window and a
reserved block code (R71, R101). Then the examples R106 gives. Which class a word is in that two would fit,
an interior byte of a register among them, is log entry 4. -/
def Obligations.RefusedCommandWords : Prop :=
  (∀ p : Params, ParamsValid p → ∀ (we : Bool) (sz : Width) (rest : List Word),
    let bytes := 2 ^ sz.code.toNat
    (∀ r : Reg,
      (we = true → r.readOnly = true →
        decodeBus p (command we sz r.blk (p.layout.of r).off :: rest) = .error .writeToReadOnly) ∧
      (¬(we = true ∧ r.readOnly = true) → bytes ∉ r.widths →
        decodeBus p (command we sz r.blk (p.layout.of r).off :: rest) = .error .width)) ∧
    (∀ r : BitVec 4, r.toNat < p.nIser → sz ≠ .w32 →
      decodeBus p (command we sz .nvicIser (iserOff r) :: rest) = .error .width) ∧
    (∀ n : BitVec 9, n.toNat < p.nLines → sz ≠ .w8 →
      decodeBus p (command we sz .nvicIpr (iprOff n) :: rest) = .error .width) ∧
    (∀ (blk : Blk) (off : BitVec 12), blk ≠ .nvicIpr → off.toNat < blk.size p → off.toNat % bytes ≠ 0 →
      decodeBus p (command we sz blk off :: rest) = .error .misaligned) ∧
    (∀ (blk : Blk) (off : BitVec 12), blk ∈ [Blk.usart, .i2c, .spi] → off.toNat < 0x400 →
      off.toNat % bytes = 0 → (∀ r : Reg, r.blk = blk → (p.layout.of r).off ≠ off) →
      decodeBus p (command we sz blk off :: rest) = .error .unmappedOffset) ∧
    (∀ off : BitVec 12, off.toNat < 4 * p.nIser → off.toNat % 4 ≠ 0 → off.toNat % bytes = 0 →
      decodeBus p (command we sz .nvicIser off :: rest) = .error .unmappedOffset) ∧
    (∀ off : BitVec 12, 4 * p.nIser ≤ off.toNat → off.toNat < 0x40 →
      decodeBus p (command we sz .nvicIser off :: rest) = .error .indexOutOfRange) ∧
    (∀ off : BitVec 12, p.nLines ≤ off.toNat → off.toNat < 0x200 →
      decodeBus p (command we sz .nvicIpr off :: rest) = .error .indexOutOfRange) ∧
    (∀ (blk : Blk) (off : BitVec 12),
      (if blk = .nvicIser then 0x40 else if blk = .nvicIpr then 0x200 else 0x400) ≤ off.toNat →
      decodeBus p (command we sz blk off :: rest) = .error .outsideBlock) ∧
    (∀ cmd : Word, cmd.extractLsb' 16 13 = 0#13 → cmd.extractLsb' 29 2 ≠ 0b11#2 →
      5 ≤ (cmd.extractLsb' 12 4).toNat → decodeBus p (cmd :: rest) = .error .outsideBlock)) ∧
  ∀ rest : List Word,
    (∀ cmd ∈ [0xC000001C#32, 0xC0000024#32, 0xC0001018#32, 0xC0001024#32, 0xC0002008#32],
      decodeBus .default (cmd :: rest) = .error .writeToReadOnly) ∧
    (∀ cmd ∈ [0x0000001C#32, 0xC000200C#32, 0x40004000#32],
      decodeBus .default (cmd :: rest) = .error .width) ∧
    decodeBus .default (0x2000200D#32 :: rest) = .error .misaligned ∧
    (∀ cmd ∈ [0x40000008#32, 0x40000010#32, 0x40000018#32, 0x4000002C#32, 0x400003FC#32, 0x40001008#32,
        0x4000100C#32, 0x40001014#32, 0x40001020#32, 0x4000102C#32, 0x40002010#32],
      decodeBus .default (cmd :: rest) = .error .unmappedOffset) ∧
    (∀ cmd ∈ [0xC000303C#32, 0x800041E0#32], decodeBus .default (cmd :: rest) = .error .indexOutOfRange)

/-- A few command words and event bytes written out from the spec's tables (R104, R107) decode to the
operations they stand for. The operand bytes of an event are log entry 3. -/
def Obligations.WordsOfTheSpecDecode : Prop :=
  decodeBus .default [0x4000001C#32] = .ok (.rdUsartIsr, []) ∧
  decodeBus .default [0xC0000028#32, 0x00000041#32] = .ok (.wrUsartTdr 0x41#32, []) ∧
  decodeBus .default [0xC0001004#32, 0x000220A0#32] = .ok (.wrI2cCr2 0x000220A0#32, []) ∧
  decodeBus .default [0x0000200C#32] = .ok (.rd8SpiDr, []) ∧
  decodeBus .default [0xA000200C#32, 0x00003412#32] = .ok (.wr16SpiDr 0x3412#16, []) ∧
  decodeBus .default [0xC0003038#32, 0x80000000#32] = .ok (.wrNvicIser 14#4 0x80000000#32, []) ∧
  decodeBus .default [0x800041DF#32, 0x00000040#32] = .ok (.wrNvicIpr 479#9 0x40#8, []) ∧
  decodeEvent .default [0x01#8] = .ok (.evUsartClk, []) ∧
  decodeEvent .default [0x11#8, 0x01#8] = .ok (.evI2cAddr true false, []) ∧
  decodeEvent .default [0x13#8, 0x7F#8] = .ok (.evI2cRxByte 0x7F#8, []) ∧
  decodeEvent .default [0x30#8, 0xDF#8, 0x03#8] = .ok (.evNvicPend 479#9 true, [])

/-- The law of the layout (R6, R20), for every layout that can be decoded: the k-th defined bit of a register
stands at the k-th place the layout names, in a value that is read and in one that is written, and at no other;
what is written with no reserved bit reads back; and the layout of 10_state.md has every bit where the rules
name it. -/
def Obligations.LayoutMovesBits : Prop :=
  (∀ l : Layout, LayoutValid l → ∀ (r : Reg) (v w : Word),
    (∀ k b p : Nat, r.bits[k]? = some b → (l.of r).pos[k]? = some p →
      (toBus l r w).getLsbD p = w.getLsbD b ∧ (fromBus l r v).getLsbD b = v.getLsbD p) ∧
    SetsOnly (toBus l r w) (l.of r).pos ∧ SetsOnly (fromBus l r v) r.bits ∧
    (SetsOnly v (l.of r).pos → toBus l r (fromBus l r v) = v) ∧
    (SetsOnly w r.bits → fromBus l r (toBus l r w) = w)) ∧
  ParamsValid .default ∧
  ∀ (r : Reg) (w : Word), SetsOnly w r.bits → toBus .default r w = w ∧ fromBus .default r w = w

/-- R71, for base addresses whose windows do not overlap and do not pass the top of the address space: an
address of a window is its block and the offset inside it, an address of no window is outside the block;
and the sizes of the windows. -/
def Obligations.AddressesReachTheirWindow : Prop :=
  ∀ p : Params,
  [Blk.usart, .i2c, .spi, .nvicIser, .nvicIpr].map (Blk.size p) = [0x400, 0x400, 0x400, 4 * p.nIser, p.nLines] ∧
  ∀ base : Blk → Word,
    (∀ b, (base b).toNat + b.size p ≤ 2 ^ 32) →
    (∀ b c, b ≠ c →
      (base b).toNat + b.size p ≤ (base c).toNat ∨ (base c).toNat + c.size p ≤ (base b).toNat) →
    (∀ (b : Blk) (off : BitVec 12), off.toNat < b.size p →
      windowOf p base (base b + off.setWidth 32) = some (b, off)) ∧
    (∀ addr : Word,
      (∀ b, ¬((base b).toNat ≤ addr.toNat ∧ addr.toNat < (base b).toNat + b.size p)) →
      windowOf p base addr = none ∧
      ∀ we sz, commandAt p base we sz addr = .error .outsideBlock)

/-! ### Steps (00_scope.md R10; the schedule and the two streams are log entry 1) -/

/-- A step runs the operation that the schedule and the stream of the agent that moves give it, at the
state from which they have been taken; an encoding that is refused refuses the step; with nothing to do,
nothing happens (log entry 1). -/
def Obligations.StepFollowsTheSchedule : Prop :=
  ∀ s : State,
    (s.turns = [] → step s = .next s) ∧
    (∀ turns, s.turns = .reset :: turns → step s = .next (resetStep { s with turns := turns })) ∧
    (∀ turns, s.turns = .host :: turns →
      (s.hostStream = [] → step s = .next { s with turns := turns }) ∧
      (∀ i rest, decodeBus s.params s.hostStream = .ok (i, rest) →
        step s = exec i { s with turns := turns, hostStream := rest }) ∧
      (∀ r, s.hostStream ≠ [] → decodeBus s.params s.hostStream = .error r → step s = .refused (refusalOf r))) ∧
    (∀ turns, s.turns = .agent :: turns →
      (s.agentStream = [] → step s = .next { s with turns := turns }) ∧
      (∀ i rest, decodeEvent s.params s.agentStream = .ok (i, rest) →
        step s = exec i { s with turns := turns, agentStream := rest }) ∧
      (∀ r, s.agentStream ≠ [] → decodeEvent s.params s.agentStream = .error r → step s = .refused (refusalOf r)))

/-- An operation put at the front of the schedule, encoded, is what the next step runs, at the state it
was put into: whatever the operation and whatever else is scheduled (log entry 1). -/
def Obligations.PlacedOperationIsTheNextStep : Prop :=
  ∀ (i : Instr) (s : State), ParamsValid s.params → i.wf s.params = true →
    step (place s (encode s.params.layout i)) = exec i s

/-! ### Reset (70_reset_and_hazards.md section 1) -/

/-- A reset step (R350): every register and every hidden state element at its reset value; after it no sub-block
and no line is enabled and no step of the block's agents is, so such an event changes nothing (log entry 11).
What is the model's own or stands outside the block: the counters of free values and the faults recorded keep
their values, the records of the bus and of SCK and MOSI are emptied, and the parameters, the `pend` inputs,
HOST's streams and its last read are as they were (log entries 6, 7, 9, 14, 15, 25). -/
def Obligations.ResetStepRestoresEverything : Prop :=
  ∀ (s : State) (turns : List Turn), s.turns = .reset :: turns → ∃ t : State, step s = .next t ∧
    t.usart = {
      cr1 := 0#32, cr2 := 0#32, brr := 0#16, rto := 0#24
      isr := { fe := false, ore := false, idle := false, rxne := false, tc := true, txe := true, rtof := false }
      rdr := 0#9, tdr := 0#9, brgAcc := 0
      tx := { state := .idle, tsr := 0#9, bit := 0, stop := 0, osc := 0 }
      txPin := true
      rx := { state := .hunt, rsr := 0#9, bit := 0, osc := 0, prev := true, idleCnt := 0, idleArmed := false
              rtoRun := false, rtoCnt := 0, rtoOsc := 0 }
      draws := s.usart.draws, fault := s.usart.fault, torn := false, tears := s.usart.tears } ∧
    t.i2c = {
      pe := false, cr2 := 0#32, timingr := 0#32
      isr := { txe := true, txis := false, rxne := false, nackf := false, stopf := false, tc := false
               arlo := false, busy := false }
      rxdr := 0#8, txdr := 0#8, phase := .idle, remaining := 0, shift := 0#8, scl := true, sda := true
      wire := [], draws := s.i2c.draws } ∧
    t.spi = {
      cr1 := 0#32, cr2 := 0x00000700#32, txf := [], rxf := []
      sh := { busy := false, tx := 0#16, rx := 0#16, cnt := 0 }
      ovr := false, modf := false, ovrSeq := false, modfSeq := false, sck := false, mosi := false
      wave := [], fault := s.spi.fault, torn := false, tears := s.spi.tears } ∧
    (∀ r : Fin 16, t.nvic.iser[r] = 0#32) ∧ (∀ n : Fin 512, t.nvic.ipr[n] = 0#8) ∧
    (∀ n, t.nvic.enabled n = false) ∧
    t.nvic.pend = s.nvic.pend ∧ t.params = s.params ∧ t.rdata = s.rdata ∧ t.turns = turns ∧
    t.hostStream = s.hostStream ∧ t.agentStream = s.agentStream ∧
    (∀ e : Instr, agentEvent e = true → eventEnabled t e = false ∧ exec e t = .next t)

/-- A fault is recorded and the run goes on (R381); it is never cleared (R9), by a reset step neither; and it is
recorded by the writes of R170 and R270 only, where they say. That no step ends in the outcome `fault`, and
what is free from there, is log entry 14. -/
def Obligations.FaultsAreRecorded : Prop :=
  ∀ s : State, (∀ f, step s ≠ .fault f) ∧ ∀ t : State, step s = .next t →
    (s.usart.fault ≠ none → t.usart.fault ≠ none) ∧
    (s.usart.fault = none → t.usart.fault ≠ none →
      t.usart.fault = some .txStoppedInFrame ∧ s.turns.head? = some .host ∧
      ∃ raw rest, decodeBus s.params s.hostStream = .ok (.wrUsartCr1 raw, rest) ∧
        let v := fromBus s.params.layout .usartCr1 raw
        s.usart.cr1.getLsbD 0 = true ∧ s.usart.cr1.getLsbD 3 = true ∧
        (v.getLsbD 3 = false ∨ v.getLsbD 0 = false) ∧
        (s.usart.tx.state ≠ .idle ∨ s.usart.isr.txe = false)) ∧
    (s.spi.fault ≠ none → t.spi.fault ≠ none) ∧
    (s.spi.fault = none → t.spi.fault ≠ none →
      t.spi.fault = some .disabledWhileBusy ∧ s.turns.head? = some .host ∧
      ∃ raw rest, decodeBus s.params s.hostStream = .ok (.wrSpiCr1 raw, rest) ∧
        let v := fromBus s.params.layout .spiCr1 raw
        s.spi.cr1.getLsbD 6 = true ∧ v.getLsbD 6 = false ∧ (s.spi.sh.busy = true ∨ s.spi.txf ≠ []))

/-- What software reads right after reset: R47's summary and vector H3 of 95_test_vectors.md. SPI.DR has
nothing to read. -/
def Obligations.ResetStateReads : Prop :=
  (∀ q ∈ [(Instr.rdUsartCr1, 0#32), (.rdUsartCr2, 0#32), (.rdUsartBrr, 0#32), (.rdUsartRtor, 0#32),
      (.rdUsartIsr, 0x000000C0#32), (.rdUsartIcr, 0#32), (.rdUsartRdr, 0#32), (.rdUsartTdr, 0#32),
      (.rdI2cCr1, 0#32), (.rdI2cCr2, 0#32), (.rdI2cTimingr, 0#32), (.rdI2cIsr, 0x00000001#32),
      (.rdI2cIcr, 0#32), (.rdI2cRxdr, 0#32), (.rdI2cTxdr, 0#32), (.rdSpiCr1, 0#32),
      (.rdSpiCr2, 0x00000700#32), (.rdSpiSr, 0x00000002#32)],
    exec q.1 State.reset = .next { State.reset with rdata := q.2 }) ∧
  (∀ r : BitVec 4, r.toNat < 15 → exec (.rdNvicIser r) State.reset = .next { State.reset with rdata := 0#32 }) ∧
  (∀ n : BitVec 9, n.toNat < 480 → exec (.rdNvicIpr n) State.reset = .next { State.reset with rdata := 0#32 }) ∧
  exec .rd8SpiDr State.reset = .refused .rxFifoUnderflow ∧
  exec .rd16SpiDr State.reset = .refused .rxFifoUnderflow

/-! ### Invariants (Sys2Proof/Safety.lean) -/

/-- The invariants hold right after reset. -/
def Obligations.InvariantAtReset : Prop := Inv State.reset

/-- The USART's invariant is kept by every step: R152's `brg.acc < DIV`, R159's `TC = 1` implies an idle
transmitter, the counter widths of R29, the fields no write can make reserved, the TX pin. What it says of a
torn transmitter is log entry 14, and of `rx.rsr` while RE = 0 log entry 22. -/
def Obligations.UsartInvariantKept : Prop :=
  ∀ s t : State, UsartInv s.usart → step s = .next t → UsartInv t.usart

/-- The I2C's invariant is kept by every step: START and STOP never both 1, TXIS and BUSY as R205 says,
everything idle while PE = 0 (R232), SCL as R204 says. SDA released in I_IDLE and I_LOST is log entry 7, the
clauses on TC are log entry 17, and `seq.shift` while PE = 0 is log entry 22. -/
def Obligations.I2cInvariantKept : Prop :=
  ∀ s t : State, I2cInv s.i2c → step s = .next t → I2cInv t.i2c

/-- The SPI's invariant is kept by every step: the FIFOs never hold more than four bytes (R251), never slave
while enabled (R270), the frame width legal (R37), the clearing sequences only of set flags (R268). What it
says of a torn shifter is log entry 14, of the record of SCK and MOSI log entry 25, and of SCK log entry 16. -/
def Obligations.SpiInvariantKept : Prop :=
  ∀ s t : State, SpiInv s.spi → step s = .next t → SpiInv t.spi

/-- The low bits of every priority cell read as zero after every step (R42, R304). -/
def Obligations.NvicInvariantKept : Prop :=
  ∀ s t : State, NvicInv s.params s.nvic → step s = .next t → NvicInv t.params t.nvic

/-! ### The whole machine -/

/-- The frame of every operation: it changes its own sub-block only, leaves the parameters, the schedule and both
streams alone, and only a read answers HOST (20_memory.md R76, R87; 60_exceptions.md R325). -/
def Obligations.OperationsStayInTheirSubBlock : Prop :=
  ∀ (i : Instr) (s t : State), exec i s = .next t →
    (subBlock i ≠ .usart → t.usart = s.usart) ∧ (subBlock i ≠ .i2c → t.i2c = s.i2c) ∧
    (subBlock i ≠ .spi → t.spi = s.spi) ∧ (subBlock i ≠ .nvic → t.nvic = s.nvic) ∧
    ((∀ cmd, encode s.params.layout i ≠ .bus [cmd]) → t.rdata = s.rdata) ∧
    t.params = s.params ∧ t.turns = s.turns ∧ t.hostStream = s.hostStream ∧ t.agentStream = s.agentStream

/-- R87's last sentence: operations on different sub-blocks commute. The value of the last read is the one
thing their order can tell. -/
def Obligations.DifferentSubBlocksCommute : Prop :=
  ∀ (i j : Instr) (s t : State), subBlock i ≠ subBlock j → runOps [i, j] s = .next t →
    ∃ u : State, runOps [j, i] s = .next u ∧ u = { t with rdata := u.rdata } ∧
      ((∀ cmd, encode s.params.layout i ≠ .bus [cmd]) ∨ (∀ cmd, encode s.params.layout j ≠ .bus [cmd]) → u = t)

/-- The model's choice (log entry 11): an event whose precondition does not hold changes nothing. -/
def Obligations.DisabledStepsChangeNothing : Prop :=
  ∀ (i : Instr) (s : State), eventEnabled s i = false → exec i s = .next s

/-- The flags are sticky: each is cleared by the operation of R321's last column and by the local resets of
R351 only. -/
def Obligations.FlagsAreSticky : Prop :=
  ∀ (i : Instr) (s t : State), exec i s = .next t →
    let value := fromBus s.params.layout
    (∀ q ∈ [(UsartFlags.fe, 1), (UsartFlags.ore, 3), (UsartFlags.idle, 4), (UsartFlags.rtof, 11)],
      q.1 s.usart.isr = true → q.1 t.usart.isr = false →
      ∃ v, i = .wrUsartIcr v ∧ (value .usartIcr v).getLsbD q.2 = true ∨
        i = .wrUsartCr1 v ∧ (value .usartCr1 v).getLsbD 0 = false) ∧
    (∀ q ∈ [(I2cFlags.nackf, 4), (I2cFlags.stopf, 5), (I2cFlags.arlo, 9)],
      q.1 s.i2c.isr = true → q.1 t.i2c.isr = false →
      ∃ v, i = .wrI2cIcr v ∧ (value .i2cIcr v).getLsbD q.2 = true ∨
        i = .wrI2cCr1 v ∧ (value .i2cCr1 v).getLsbD 0 = false) ∧
    (s.spi.ovr = true → t.spi.ovr = false → i = .rdSpiSr ∧ s.spi.ovrSeq = true) ∧
    (s.spi.modf = true → t.spi.modf = false → (∃ v, i = .wrSpiCr1 v) ∧ s.spi.modfSeq = true)

/-- R324: an enabled line cannot be disabled again except by reset; it becomes enabled by a write of its own
bit only. -/
def Obligations.EnablesAreNeverTakenBack : Prop :=
  ∀ (i : Instr) (s t : State) (line : Nat), exec i s = .next t →
    (s.nvic.enabled line = true → t.nvic.enabled line = true) ∧
    (s.nvic.enabled line = false → t.nvic.enabled line = true →
      ∃ r v, i = .wrNvicIser r v ∧ r.toNat = line / 32 ∧ v.getLsbD (line % 32) = true)

/-- R82: no operation that leaves a sub-block enabled changes a field that is guarded while it is. -/
def Obligations.GuardedFieldsHeld : Prop :=
  ∀ (i : Instr) (s t : State), exec i s = .next t →
    (UsartCr1.ue s.usart.cr1 = true → UsartCr1.ue t.usart.cr1 = true →
      t.usart.brr = s.usart.brr ∧ UsartCr1.m0 t.usart.cr1 = UsartCr1.m0 s.usart.cr1 ∧
      UsartCr1.m1 t.usart.cr1 = UsartCr1.m1 s.usart.cr1 ∧
      UsartCr1.over8 t.usart.cr1 = UsartCr1.over8 s.usart.cr1 ∧
      UsartCr2.stop t.usart.cr2 = UsartCr2.stop s.usart.cr2 ∧
      UsartCr2.rtoen t.usart.cr2 = UsartCr2.rtoen s.usart.cr2) ∧
    (s.i2c.pe = true → t.i2c.pe = true → t.i2c.timingr = s.i2c.timingr) ∧
    (SpiCr1.spe s.spi.cr1 = true → SpiCr1.spe t.spi.cr1 = true →
      t.spi.cr1 = s.spi.cr1 ∧ SpiCr2.ds t.spi.cr2 = SpiCr2.ds s.spi.cr2 ∧
      SpiCr2.frxth t.spi.cr2 = SpiCr2.frxth s.spi.cr2)

/-- The law on the schedule (R10), and what R189, R218 and R269 say it gives: in every weakly fair run, with UE
= TE = 1 held a waiting character leaves TDR, and transmission completes when HOST writes no more to it; with PE
= 1 held an address phase ends; with SPE = MSTR = 1 held the transmit FIFO and the shifter run empty when HOST
pushes no more. Which steps the law speaks of is log entry 24; a transmitter or a shifter that is torn is not
specified (log entry 14). -/
def Obligations.FairRunsProgress : Prop :=
  ∀ (σ : Nat → State) (op : Nat → Option Instr), Run σ op → WeaklyFair σ op → ∀ n,
    ((∀ m, n ≤ m → UsartCr1.ue (σ m).usart.cr1 = true ∧ UsartCr1.te (σ m).usart.cr1 = true) →
      UsartInv (σ n).usart → (σ n).usart.torn = false → (σ n).usart.isr.txe = false →
      ∃ m, n ≤ m ∧ (σ m).usart.isr.txe = true ∧
        ((∀ k, m ≤ k → ∀ v, op k ≠ some (.wrUsartTdr v)) → ∃ k, m ≤ k ∧ (σ k).usart.isr.tc = true)) ∧
    ((∀ m, n ≤ m → (σ m).i2c.pe = true) → (σ n).i2c.phase = .addr →
      ∃ m ack lost, n ≤ m ∧ op m = some (.evI2cAddr ack lost) ∧ I2cCr2.start (σ (m + 1)).i2c.cr2 = false) ∧
    ((∀ m, n ≤ m → SpiCr1.spe (σ m).spi.cr1 = true ∧ SpiCr1.mstr (σ m).spi.cr1 = true) →
      SpiInv (σ n).spi → (σ n).spi.torn = false →
      (∀ m, n ≤ m → (∀ v, op m ≠ some (.wr8SpiDr v)) ∧ ∀ v, op m ≠ some (.wr16SpiDr v)) →
      ∃ m, n ≤ m ∧ (σ m).spi.txf = [] ∧ (σ m).spi.bsy = false)

/-! ### USART (41_usart.md) -/

/-- R151: the divisor and the oversampling factor of BRR and OVER8, the line rate they give, and the rule's
own example. Beside it the widths of a frame (R22, R23, R154). That the line rate with DIV = 0 is 0 is the model's
choice (log entry 21). -/
def Obligations.UsartDivisorAndFrame : Prop :=
  (∀ u : Usart,
    (u.cr1.getLsbD 15 = false → u.div = u.brr.toNat ∧ u.nOs = 16) ∧
    (u.cr1.getLsbD 15 = true → u.div = 16 * (u.brr.toNat / 16) + 2 * (u.brr.toNat % 8) ∧ u.nOs = 8) ∧
    (u.cr1.getLsbD 28 = false → u.cr1.getLsbD 12 = false → u.nData = 8) ∧
    (u.cr1.getLsbD 28 = false → u.cr1.getLsbD 12 = true → u.nData = 9) ∧
    (u.cr1.getLsbD 28 = true → u.cr1.getLsbD 12 = false → u.nData = 7) ∧
    (u.cr2.extractLsb' 12 2 = 0b00#2 → u.nStop = 1) ∧ (u.cr2.extractLsb' 12 2 = 0b10#2 → u.nStop = 2) ∧
    u.nFrame = 1 + u.nData + u.nStop) ∧
  (∀ (f : Nat) (brr : BitVec 16),
    usartBaud f brr false = f / usartDiv brr false ∧ usartBaud f brr true = 2 * f / usartDiv brr true) ∧
  usartDiv 0x0000#16 false = 0 ∧ usartDiv 0x0D02#16 true = 3332

/-- The USART's registers as HOST reads them, as they stand on the bus under the layout: R172 for RDR, whose read
clears RXNE, and R176, R178, R180, R181, R183, R184 for the others, whose reads change nothing; R171 for CR1,
whose reserved bits read 0. -/
def Obligations.UsartReads : Prop :=
  ∀ s : State,
    let bus := toBus s.params.layout
    exec .rdUsartCr1 s = .next { s with rdata := bus .usartCr1 s.usart.cr1 } ∧
    SetsOnly (bus .usartCr1 s.usart.cr1) s.params.layout.usartCr1.pos ∧
    exec .rdUsartCr2 s = .next { s with rdata := bus .usartCr2 s.usart.cr2 } ∧
    exec .rdUsartBrr s = .next { s with rdata := bus .usartBrr (s.usart.brr.setWidth 32) } ∧
    exec .rdUsartRtor s = .next { s with rdata := bus .usartRtor (s.usart.rto.setWidth 32) } ∧
    (∃ v : Word, exec .rdUsartIsr s = .next { s with rdata := bus .usartIsr v } ∧
      v.getLsbD 1 = s.usart.isr.fe ∧ v.getLsbD 3 = s.usart.isr.ore ∧ v.getLsbD 4 = s.usart.isr.idle ∧
      v.getLsbD 5 = s.usart.isr.rxne ∧ v.getLsbD 6 = s.usart.isr.tc ∧ v.getLsbD 7 = s.usart.isr.txe ∧
      v.getLsbD 11 = s.usart.isr.rtof ∧ SetsOnly v [1, 3, 4, 5, 6, 7, 11]) ∧
    exec .rdUsartIcr s = .next { s with rdata := 0#32 } ∧
    exec .rdUsartTdr s = .next { s with rdata := bus .usartTdr (s.usart.tdr.setWidth 32) } ∧
    exec .rdUsartRdr s = .next { s with
      usart := { s.usart with isr := { s.usart.isr with rxne := false } }
      rdata := bus .usartRdr (s.usart.rdr.setWidth 32) } ∧
    (s.usart.isr.rxne = false →
      exec .rdUsartRdr s = .next { s with rdata := bus .usartRdr (s.usart.rdr.setWidth 32) })

/-- R173, R175, R177, R179, R182: the writes of TDR, CR2, BRR, RTOR and ICR, with the guards of R174 on them, of
a word `raw` that the layout makes the value `v` of the register. A write of TDR stores the character and clears
TXE and TC, a waiting character is overwritten; each 1 written to ICR clears the flag at its position. -/
def Obligations.UsartOtherWrites : Prop :=
  ∀ (s : State) (raw : Word),
    let l := s.params.layout
    (let v := fromBus l .usartTdr raw;
      (¬SetsOnly raw l.usartTdr.pos → exec (.wrUsartTdr raw) s = .refused .reservedBit) ∧
      (SetsOnly raw l.usartTdr.pos → UsartCr1.ue s.usart.cr1 = false →
        exec (.wrUsartTdr raw) s = .refused .disabled) ∧
      (SetsOnly raw l.usartTdr.pos → UsartCr1.ue s.usart.cr1 = true →
        exec (.wrUsartTdr raw) s = .next { s with
          usart := { s.usart with
            tdr := v.setWidth 9, isr := { s.usart.isr with txe := false, tc := false } } })) ∧
    (let v := fromBus l .usartCr2 raw;
      (¬SetsOnly raw l.usartCr2.pos → exec (.wrUsartCr2 raw) s = .refused .reservedBit) ∧
      (SetsOnly raw l.usartCr2.pos → v.getLsbD 12 = true →
        exec (.wrUsartCr2 raw) s = .refused .reservedValue) ∧
      (SetsOnly raw l.usartCr2.pos → v.getLsbD 12 = false → UsartCr1.ue s.usart.cr1 = true →
        (∃ j ∈ [12, 13, 23], v.getLsbD j ≠ s.usart.cr2.getLsbD j) →
        exec (.wrUsartCr2 raw) s = .refused .configWhileEnabled) ∧
      (SetsOnly raw l.usartCr2.pos → v.getLsbD 12 = false →
        (UsartCr1.ue s.usart.cr1 = true → ∀ j ∈ [12, 13, 23], v.getLsbD j = s.usart.cr2.getLsbD j) →
        exec (.wrUsartCr2 raw) s = .next { s with usart := { s.usart with cr2 := v } })) ∧
    (let v := fromBus l .usartBrr raw;
      (¬SetsOnly raw l.usartBrr.pos → exec (.wrUsartBrr raw) s = .refused .reservedBit) ∧
      (SetsOnly raw l.usartBrr.pos → UsartCr1.ue s.usart.cr1 = true → v.toNat ≠ s.usart.brr.toNat →
        exec (.wrUsartBrr raw) s = .refused .configWhileEnabled) ∧
      (SetsOnly raw l.usartBrr.pos → (UsartCr1.ue s.usart.cr1 = true → v.toNat = s.usart.brr.toNat) →
        exec (.wrUsartBrr raw) s = .next { s with usart := { s.usart with brr := v.setWidth 16 } })) ∧
    (let v := fromBus l .usartRtor raw;
      (¬SetsOnly raw l.usartRtor.pos → exec (.wrUsartRtor raw) s = .refused .reservedBit) ∧
      (SetsOnly raw l.usartRtor.pos →
        exec (.wrUsartRtor raw) s = .next { s with usart := { s.usart with rto := v.setWidth 24 } })) ∧
    (let v := fromBus l .usartIcr raw;
      (¬SetsOnly raw l.usartIcr.pos → exec (.wrUsartIcr raw) s = .refused .reservedBit) ∧
      (SetsOnly raw l.usartIcr.pos →
        exec (.wrUsartIcr raw) s = .next { s with
          usart := { s.usart with
            isr := { s.usart.isr with
              fe := if v.getLsbD 1 then false else s.usart.isr.fe
              ore := if v.getLsbD 3 then false else s.usart.isr.ore
              idle := if v.getLsbD 4 then false else s.usart.isr.idle
              tc := if v.getLsbD 6 then false else s.usart.isr.tc
              rtof := if v.getLsbD 11 then false else s.usart.isr.rtof } } }))

/-- R170, with R166 and R185 for what clearing RE and UE does: the checks in their order, the fault recorded, then the
write. The model's choice is that after the fault the write takes place, that the transmitter alone is free and that
UE = 0 gives it its reset values (log entry 14). That clearing RE restores `rx.rsr` too, as R351 says of the
receiver's hidden state, is log entry 22. -/
def Obligations.UsartCr1Write : Prop :=
  ∀ (s : State) (raw : Word),
    let defined := s.params.layout.usartCr1.pos
    let v := fromBus s.params.layout .usartCr1 raw
    let old := s.usart.cr1
    let div := if v.getLsbD 15 then 16 * (s.usart.brr.toNat / 16) + 2 * (s.usart.brr.toNat % 8)
      else s.usart.brr.toNat
    let stops := old.getLsbD 0 = true ∧ old.getLsbD 3 = true ∧ (v.getLsbD 3 = false ∨ v.getLsbD 0 = false) ∧
      (s.usart.tx.state ≠ .idle ∨ s.usart.isr.txe = false)
    let rx := if old.getLsbD 2 = true ∧ v.getLsbD 2 = false then
        { state := .hunt, rsr := 0#9, bit := 0, osc := 0, prev := true, idleCnt := 0, idleArmed := false
          rtoRun := false, rtoCnt := 0, rtoOsc := 0 }
      else s.usart.rx
    (¬SetsOnly raw defined → exec (.wrUsartCr1 raw) s = .refused .reservedBit) ∧
    (SetsOnly raw defined →
      (v.getLsbD 28 = true ∧ v.getLsbD 12 = true → exec (.wrUsartCr1 raw) s = .refused .reservedValue) ∧
      (¬(v.getLsbD 28 = true ∧ v.getLsbD 12 = true) →
        (old.getLsbD 0 = true → v.getLsbD 0 = true → (∃ j ∈ [12, 15, 28], v.getLsbD j ≠ old.getLsbD j) →
          exec (.wrUsartCr1 raw) s = .refused .configWhileEnabled) ∧
        (old.getLsbD 0 = false → v.getLsbD 0 = true →
          div < 16 ∨ v.getLsbD 15 = true ∧ s.usart.brr.getLsbD 3 = true →
          exec (.wrUsartCr1 raw) s = .refused .badDivisor) ∧
        ((old.getLsbD 0 = true → v.getLsbD 0 = true → ∀ j ∈ [12, 15, 28], v.getLsbD j = old.getLsbD j) →
          (old.getLsbD 0 = false → v.getLsbD 0 = true →
            16 ≤ div ∧ ¬(v.getLsbD 15 = true ∧ s.usart.brr.getLsbD 3 = true)) →
          (¬stops → v.getLsbD 0 = true →
            exec (.wrUsartCr1 raw) s = .next { s with usart := { s.usart with cr1 := v, rx := rx } }) ∧
          (¬stops → v.getLsbD 0 = false →
            exec (.wrUsartCr1 raw) s = .next { s with
              usart := { Usart.reset with
                cr1 := v, cr2 := s.usart.cr2, brr := s.usart.brr, rto := s.usart.rto, rdr := s.usart.rdr
                tdr := s.usart.tdr, draws := s.usart.draws, fault := s.usart.fault
                tears := s.usart.tears } }) ∧
          (stops → v.getLsbD 0 = true → ∃ u : Usart,
            exec (.wrUsartCr1 raw) s = .next { s with usart := u } ∧
            u = { s.usart with
              cr1 := v, rx := rx, fault := some .txStoppedInFrame, torn := true
              tx := u.tx, txPin := u.txPin, isr := { s.usart.isr with txe := u.isr.txe, tc := u.isr.tc }
              tears := u.tears }) ∧
          (stops → v.getLsbD 0 = false → ∃ u : Usart,
            exec (.wrUsartCr1 raw) s = .next { s with usart := u } ∧
            u = { Usart.reset with
              cr1 := v, cr2 := s.usart.cr2, brr := s.usart.brr, rto := s.usart.rto, rdr := s.usart.rdr
              tdr := s.usart.tdr, draws := s.usart.draws, fault := some .txStoppedInFrame
              tears := u.tears }))))

/-- One cycle of the baud-rate generator (the pseudocode of R152). The level of the pin at a tick is the free
value number `draws` (log entry 6), so the tick is the USART.TICK of that level. -/
def Obligations.UsartClockStep : Prop :=
  ∀ s : State, UsartCr1.ue s.usart.cr1 = true →
    (s.usart.brgAcc + 16 < s.usart.div →
      exec .evUsartClk s = .next { s with usart := { s.usart with brgAcc := s.usart.brgAcc + 16 } }) ∧
    (s.usart.div ≤ s.usart.brgAcc + 16 → ∃ (t : State) (p : Bool),
      exec .evUsartClk s = .next t ∧
      exec (.evUsartTick p) { s with
        usart := { s.usart with
          brgAcc := s.usart.brgAcc + 16 - s.usart.div, draws := s.usart.draws + 1 } } = .next t)

/-- Over any DIV consecutive cycles there are exactly 16 ticks (R152), counted by the levels they draw (log
entry 6); the accumulator is then where it was. -/
def Obligations.SixteenTicksPerDivisor : Prop :=
  ∀ s : State, UsartCr1.ue s.usart.cr1 = true → UsartInv s.usart →
    ∃ t : State, runOps (List.replicate s.usart.div .evUsartClk) s = .next t ∧
      t.usart.draws = s.usart.draws + 16 ∧ t.usart.brgAcc = s.usart.brgAcc ∧ t.usart.cr1 = s.usart.cr1

/-- What a tick does to the transmitter: R155 to R159 at TE = 1, R160 at TE = 0, and the frame of a tick: the
registers software writes, the generator and the other sub-blocks are untouched. A torn transmitter is not
specified (log entry 14). -/
def Obligations.UsartTransmitStep : Prop :=
  ∀ (s : State) (p : Bool), UsartCr1.ue s.usart.cr1 = true →
    let x := s.usart.tx
    ∃ u : Usart, exec (.evUsartTick p) s = .next { s with usart := u } ∧
      u.cr1 = s.usart.cr1 ∧ u.cr2 = s.usart.cr2 ∧ u.brr = s.usart.brr ∧ u.rto = s.usart.rto ∧
      u.tdr = s.usart.tdr ∧ u.brgAcc = s.usart.brgAcc ∧ u.draws = s.usart.draws ∧
      u.fault = s.usart.fault ∧ u.torn = s.usart.torn ∧
      (s.usart.torn = false → UsartCr1.te s.usart.cr1 = false →
        u.tx = { x with osc := 0 } ∧ u.txPin = true ∧ SameTxFlags s.usart u) ∧
      (s.usart.torn = false → UsartCr1.te s.usart.cr1 = true →
        (x.osc + 1 < s.usart.nOs →
          u.tx = { x with osc := x.osc + 1 } ∧ u.txPin = s.usart.txPin ∧ SameTxFlags s.usart u) ∧
        (s.usart.nOs ≤ x.osc + 1 →
          (x.state = .idle → s.usart.isr.txe = true →
            u.tx = { x with osc := 0 } ∧ u.txPin = true ∧ SameTxFlags s.usart u) ∧
          (x.state = .start →
            u.tx = { x with osc := 0, state := .data, bit := 0 } ∧ u.txPin = x.tsr.getLsbD 0 ∧
            SameTxFlags s.usart u) ∧
          (x.state = .data → x.bit + 1 < s.usart.nData →
            u.tx = { x with osc := 0, bit := x.bit + 1 } ∧ u.txPin = x.tsr.getLsbD (x.bit + 1) ∧
            SameTxFlags s.usart u) ∧
          (x.state = .data → s.usart.nData ≤ x.bit + 1 →
            u.tx = { x with osc := 0, state := .stop, stop := 0 } ∧ u.txPin = true ∧ SameTxFlags s.usart u) ∧
          (x.state = .stop → x.stop + 1 < s.usart.nStop →
            u.tx = { x with osc := 0, stop := x.stop + 1 } ∧ u.txPin = s.usart.txPin ∧
            SameTxFlags s.usart u) ∧
          (x.state = .idle ∨ x.state = .stop ∧ s.usart.nStop ≤ x.stop + 1 → s.usart.isr.txe = false →
            u.tx = { x with osc := 0, state := .start, tsr := s.usart.tdr } ∧ u.txPin = false ∧
            u.isr.txe = true ∧ u.isr.tc = s.usart.isr.tc) ∧
          (x.state = .stop → s.usart.nStop ≤ x.stop + 1 → s.usart.isr.txe = true →
            u.tx = { x with osc := 0, state := .idle } ∧ u.txPin = true ∧ u.isr.txe = true ∧
            u.isr.tc = true))) ∧
      (s.usart.torn = false → (s.usart.isr.tc = true → x.state = .idle ∧ s.usart.isr.txe = true) →
        u.isr.tc = true → u.tx.state = .idle ∧ u.isr.txe = true)

/-- R154: from an idle transmitter with a character waiting, the TX line carries a start bit at 0, the data
bits least significant first, and the stop bits at 1, each for one bit time; then the line is idle at 1,
TXE = TC = 1. Whatever the receive line does. -/
def Obligations.TransmitSendsTheFrame : Prop :=
  ∀ (s : State) (levels : List Bool), UsartCr1.ue s.usart.cr1 = true → UsartCr1.te s.usart.cr1 = true →
    UsartInv s.usart → s.usart.torn = false → s.usart.tx.state = .idle → s.usart.isr.txe = false →
    (s.usart.nData = 7 ∨ s.usart.nData = 8 ∨ s.usart.nData = 9) ∧
    (s.usart.nStop = 1 ∨ s.usart.nStop = 2) ∧ s.usart.nFrame = 1 + s.usart.nData + s.usart.nStop ∧
    (∀ j m, j < s.usart.nFrame → m < s.usart.nOs →
      levels.length + s.usart.tx.osc = s.usart.nOs * (j + 1) + m →
      ∃ t : State, runOps (ticks levels) s = .next t ∧
        t.usart.txPin = frameLevel s.usart.nData s.usart.tdr j) ∧
    (levels.length + s.usart.tx.osc = s.usart.nOs * (s.usart.nFrame + 1) →
      ∃ t : State, runOps (ticks levels) s = .next t ∧ t.usart.txPin = true ∧
        t.usart.tx.state = .idle ∧ t.usart.isr.txe = true ∧ t.usart.isr.tc = true)

/-- The bound of R189 and R380: with UE = TE = 1 held, a waiting character leaves TDR within `N_FRAME + 1` bit times.
That transmission is then complete within one frame more, when HOST writes nothing more, is the model's
inference: R189 gives that no bound. -/
def Obligations.TransmitProgress : Prop :=
  ∀ (s : State) (levels : List Bool), UsartCr1.ue s.usart.cr1 = true → UsartCr1.te s.usart.cr1 = true →
    UsartInv s.usart → s.usart.torn = false → s.usart.isr.txe = false →
    (levels.length = (s.usart.nFrame + 1) * s.usart.nOs →
      ∃ t : State, runOps (ticks levels) s = .next t ∧ t.usart.isr.txe = true) ∧
    (levels.length = (2 * s.usart.nFrame + 1) * s.usart.nOs →
      ∃ t : State, runOps (ticks levels) s = .next t ∧ t.usart.isr.tc = true)

/-- What a tick does to the receive frame machine: R161 to R165 at RE = 1; nothing of the receiver changes at
RE = 0 (R166). -/
def Obligations.UsartReceiveStep : Prop :=
  ∀ (s : State) (p : Bool), UsartCr1.ue s.usart.cr1 = true →
    let x := s.usart.rx
    let k := x.osc + 1
    ∃ u : Usart, exec (.evUsartTick p) s = .next { s with usart := u } ∧
      (UsartCr1.re s.usart.cr1 = false →
        u.rx = x ∧ SameDelivery s.usart u ∧ u.isr.idle = s.usart.isr.idle ∧ u.isr.rtof = s.usart.isr.rtof) ∧
      (UsartCr1.re s.usart.cr1 = true →
        u.rx.prev = p ∧
        (x.state = .hunt → SameDelivery s.usart u ∧ u.rx.rsr = x.rsr ∧ u.rx.bit = x.bit ∧
          (x.prev = true ∧ p = false → u.rx.state = .start ∧ u.rx.osc = 0) ∧
          (¬(x.prev = true ∧ p = false) → u.rx.state = .hunt ∧ u.rx.osc = x.osc)) ∧
        (x.state = .start → SameDelivery s.usart u ∧ u.rx.rsr = x.rsr ∧
          (k = s.usart.nOs / 2 → p = true → u.rx.state = .hunt ∧ u.rx.osc = 0 ∧ u.rx.bit = x.bit) ∧
          (k = s.usart.nOs / 2 → p = false →
            u.rx.state = .start ∧ u.rx.osc = k ∧ u.rx.bit = x.bit ∧ u.rx.rtoRun = false) ∧
          (k = s.usart.nOs → u.rx.state = .data ∧ u.rx.bit = 0 ∧ u.rx.osc = 0) ∧
          (k ≠ s.usart.nOs / 2 → k ≠ s.usart.nOs → u.rx.state = .start ∧ u.rx.osc = k ∧ u.rx.bit = x.bit)) ∧
        (x.state = .data → SameDelivery s.usart u ∧
          (k = s.usart.nOs / 2 → u.rx.state = .data ∧ u.rx.osc = k ∧ u.rx.bit = x.bit ∧
            ∀ j < 9, u.rx.rsr.getLsbD j = if j = x.bit then p else x.rsr.getLsbD j) ∧
          (k ≠ s.usart.nOs / 2 → u.rx.rsr = x.rsr) ∧
          (k = s.usart.nOs → x.bit + 1 < s.usart.nData →
            u.rx.state = .data ∧ u.rx.osc = 0 ∧ u.rx.bit = x.bit + 1) ∧
          (k = s.usart.nOs → s.usart.nData ≤ x.bit + 1 → u.rx.state = .stop ∧ u.rx.osc = 0) ∧
          (k ≠ s.usart.nOs / 2 → k ≠ s.usart.nOs → u.rx.state = .data ∧ u.rx.osc = k ∧ u.rx.bit = x.bit)) ∧
        (x.state = .stop → u.rx.rsr = x.rsr ∧
          (k ≠ s.usart.nOs / 2 → SameDelivery s.usart u ∧ u.rx.state = .stop ∧ u.rx.osc = k) ∧
          (k = s.usart.nOs / 2 →
            u.rx.state = .hunt ∧ u.rx.osc = 0 ∧ u.rx.idleArmed = true ∧ u.rx.idleCnt = 0 ∧
            u.rx.rtoRun = s.usart.cr2.getLsbD 23 ∧ u.rx.rtoCnt = 0 ∧ u.rx.rtoOsc = 0 ∧
            (s.usart.isr.rxne = true →
              u.isr.ore = true ∧ u.rdr = s.usart.rdr ∧ u.isr.rxne = true ∧ u.isr.fe = s.usart.isr.fe) ∧
            (s.usart.isr.rxne = false →
              u.rdr.toNat = x.rsr.toNat % 2 ^ s.usart.nData ∧ u.isr.rxne = true ∧
              u.isr.ore = s.usart.isr.ore ∧
              (p = false → u.isr.fe = true) ∧ (p = true → u.isr.fe = s.usart.isr.fe)))))

/-- R167 and R168: the idle-line detector and the receive-timeout detector, tick by tick. -/
def Obligations.UsartDetectors : Prop :=
  ∀ (s : State) (p : Bool), UsartCr1.ue s.usart.cr1 = true → UsartCr1.re s.usart.cr1 = true →
    let x := s.usart.rx
    let limit := s.usart.nFrame * s.usart.nOs
    let edge := x.prev = true ∧ p = false
    let confirmed := x.state = .start ∧ x.osc + 1 = s.usart.nOs / 2 ∧ p = false
    let completed := x.state = .stop ∧ x.osc + 1 = s.usart.nOs / 2
    ∃ u : Usart, exec (.evUsartTick p) s = .next { s with usart := u } ∧
      (x.state = .hunt → ¬edge →
        (p = false → u.rx.idleCnt = 0 ∧ u.rx.idleArmed = x.idleArmed ∧ u.isr.idle = s.usart.isr.idle) ∧
        (p = true → x.idleCnt + 1 < limit →
          u.rx.idleCnt = x.idleCnt + 1 ∧ u.rx.idleArmed = x.idleArmed ∧ u.isr.idle = s.usart.isr.idle) ∧
        (p = true → limit ≤ x.idleCnt + 1 →
          u.rx.idleCnt = limit ∧ u.rx.idleArmed = false ∧
          (x.idleArmed = true → u.isr.idle = true) ∧
          (x.idleArmed = false → u.isr.idle = s.usart.isr.idle))) ∧
      (x.state ≠ .hunt ∨ edge →
        u.rx.idleCnt = 0 ∧ u.isr.idle = s.usart.isr.idle ∧
        (completed → u.rx.idleArmed = true) ∧ (¬completed → u.rx.idleArmed = x.idleArmed)) ∧
      (x.rtoRun = true → x.state = .hunt ∨ x.state = .start → ¬confirmed →
        (x.rtoOsc + 1 < s.usart.nOs →
          u.rx.rtoOsc = x.rtoOsc + 1 ∧ u.rx.rtoCnt = x.rtoCnt ∧ u.rx.rtoRun = true ∧
          u.isr.rtof = s.usart.isr.rtof) ∧
        (s.usart.nOs ≤ x.rtoOsc + 1 →
          u.rx.rtoOsc = 0 ∧ u.rx.rtoCnt = x.rtoCnt + 1 ∧
          (s.usart.rto.toNat ≤ x.rtoCnt + 1 → u.isr.rtof = true ∧ u.rx.rtoRun = false) ∧
          (x.rtoCnt + 1 < s.usart.rto.toNat → u.isr.rtof = s.usart.isr.rtof ∧ u.rx.rtoRun = true))) ∧
      (x.rtoRun = false ∨ confirmed ∨ x.state = .data ∨ x.state = .stop →
        u.isr.rtof = s.usart.isr.rtof ∧
        (confirmed → u.rx.rtoRun = false) ∧
        (¬completed → u.rx.rtoCnt = x.rtoCnt ∧ u.rx.rtoOsc = x.rtoOsc ∧
          (¬confirmed → u.rx.rtoRun = x.rtoRun)))

/-- The times of R167, R168 and R380: after a received frame with the line high, IDLE rises `N_FRAME` bit
times and RTOF `max(RTO, 1)` bit times after the completion tick, and not before. -/
def Obligations.UsartGapTimes : Prop :=
  ∀ (s : State) (n : Nat), UsartCr1.ue s.usart.cr1 = true → UsartCr1.re s.usart.cr1 = true →
    s.usart.rx.state = .hunt →
    (s.usart.rx.idleArmed = true → s.usart.rx.idleCnt = 0 → s.usart.isr.idle = false →
      ∃ t : State, runOps (ticks (List.replicate n true)) s = .next t ∧
        t.usart.isr.idle = decide (s.usart.nFrame * s.usart.nOs ≤ n)) ∧
    (s.usart.rx.rtoRun = true → s.usart.rx.rtoCnt = 0 → s.usart.rx.rtoOsc = 0 → s.usart.isr.rtof = false →
      ∃ t : State, runOps (ticks (List.replicate n true)) s = .next t ∧
        t.usart.isr.rtof = decide (max s.usart.rto.toNat 1 * s.usart.nOs ≤ n))

/-- A frame on the receive line (R154) is received: a start bit, the data bits least significant first and
the middle of a stop bit, each bit `N_OS` ticks long, leave the character in RDR with RXNE = 1, and FE = 1
when the stop bit is 0; with RXNE = 1 already they leave an overrun and the old character (R161 to R165). -/
def Obligations.ReceiveDeliversTheFrame : Prop :=
  ∀ (s : State) (c : BitVec 9) (stop : Bool), UsartCr1.ue s.usart.cr1 = true →
    UsartCr1.re s.usart.cr1 = true → UsartInv s.usart → s.usart.rx.state = .hunt → s.usart.rx.prev = true →
    ∃ t : State, runOps (ticks (frameTicks s.usart.nOs s.usart.nData c stop)) s = .next t ∧
      t.usart.rx.state = .hunt ∧ t.usart.isr.rxne = true ∧
      (s.usart.isr.rxne = false →
        t.usart.rdr.toNat = c.toNat % 2 ^ s.usart.nData ∧ t.usart.isr.ore = s.usart.isr.ore ∧
        t.usart.isr.fe = (s.usart.isr.fe || !stop)) ∧
      (s.usart.isr.rxne = true →
        t.usart.rdr = s.usart.rdr ∧ t.usart.isr.ore = true ∧ t.usart.isr.fe = s.usart.isr.fe)

/-! ### I2C (42_i2c.md). SCL while the master is clocking, SDA between steps and the record of the bus are log
entries 7 and 9: the statements leave open the levels the spec leaves open. -/

/-- The I2C's registers as HOST reads them, as they stand on the bus under the layout: R226 for RXDR, whose read
clears RXNE (and lets SCL go on, R204), and R221, R223, R225, R227, R229, R231 for the others, whose reads change
nothing. -/
def Obligations.I2cReads : Prop :=
  ∀ s : State,
    let bus := toBus s.params.layout
    (s.i2c.pe = false → exec .rdI2cCr1 s = .next { s with rdata := bus .i2cCr1 0#32 }) ∧
    (s.i2c.pe = true → exec .rdI2cCr1 s = .next { s with rdata := bus .i2cCr1 1#32 }) ∧
    exec .rdI2cCr2 s = .next { s with rdata := bus .i2cCr2 s.i2c.cr2 } ∧
    exec .rdI2cTimingr s = .next { s with rdata := bus .i2cTimingr s.i2c.timingr } ∧
    (∃ v : Word, exec .rdI2cIsr s = .next { s with rdata := bus .i2cIsr v } ∧
      v.getLsbD 0 = s.i2c.isr.txe ∧ v.getLsbD 1 = s.i2c.isr.txis ∧ v.getLsbD 2 = s.i2c.isr.rxne ∧
      v.getLsbD 4 = s.i2c.isr.nackf ∧ v.getLsbD 5 = s.i2c.isr.stopf ∧ v.getLsbD 6 = s.i2c.isr.tc ∧
      v.getLsbD 9 = s.i2c.isr.arlo ∧ v.getLsbD 15 = s.i2c.isr.busy ∧
      SetsOnly v [0, 1, 2, 4, 5, 6, 9, 15]) ∧
    exec .rdI2cIcr s = .next { s with rdata := 0#32 } ∧
    exec .rdI2cTxdr s = .next { s with rdata := bus .i2cTxdr (s.i2c.txdr.setWidth 32) } ∧
    (∃ c : I2c, exec .rdI2cRxdr s =
        .next { s with i2c := c, rdata := bus .i2cRxdr (s.i2c.rxdr.setWidth 32) } ∧
      c = { s.i2c with isr := { s.i2c.isr with rxne := false }, scl := c.scl, draws := c.draws } ∧
      (s.i2c.isr.rxne = false → c = s.i2c))

/-- R220 and R232: PE = 1 enables and changes nothing else; PE = 0 is the software reset. That it restores
`seq.shift` too, as R351 says of the sequencer state, is log entry 22. -/
def Obligations.I2cCr1Write : Prop :=
  ∀ (s : State) (raw : Word),
    let defined := s.params.layout.i2cCr1.pos
    let v := fromBus s.params.layout .i2cCr1 raw
    (¬SetsOnly raw defined → exec (.wrI2cCr1 raw) s = .refused .reservedBit) ∧
    (SetsOnly raw defined → v.getLsbD 0 = true →
      exec (.wrI2cCr1 raw) s = .next { s with i2c := { s.i2c with pe := true } }) ∧
    (SetsOnly raw defined → v.getLsbD 0 = false → ∃ c : I2c,
      exec (.wrI2cCr1 raw) s = .next { s with i2c := c } ∧
      c = { s.i2c with
        pe := false, cr2 := c.cr2
        isr := { txe := true, txis := false, rxne := false, nackf := false, stopf := false, tc := false
                 arlo := false, busy := false }
        phase := .idle, remaining := 0, shift := 0#8, scl := true, sda := true, wire := c.wire } ∧
      ∀ j, c.cr2.getLsbD j = (s.i2c.cr2.getLsbD j && decide (j ≠ 13) && decide (j ≠ 14)))

/-- R222: the checks in their order, then the write; START and STOP are set only, and only while PE = 1;
setting either clears TC. -/
def Obligations.I2cCr2Write : Prop :=
  ∀ (s : State) (raw : Word),
    let defined := s.params.layout.i2cCr2.pos
    let v := fromBus s.params.layout .i2cCr2 raw
    let old := s.i2c.cr2
    let start := old.getLsbD 13 || (s.i2c.pe && v.getLsbD 13)
    let stop := old.getLsbD 14 || (s.i2c.pe && v.getLsbD 14)
    (¬SetsOnly raw defined → exec (.wrI2cCr2 raw) s = .refused .reservedBit) ∧
    (SetsOnly raw defined → old.getLsbD 13 = true →
      (∃ j ∈ bitsFrom 0 12 ++ bitsFrom 16 25, v.getLsbD j ≠ old.getLsbD j) →
      exec (.wrI2cCr2 raw) s = .refused .configWhileStart) ∧
    (SetsOnly raw defined →
      (old.getLsbD 13 = true → ∀ j ∈ bitsFrom 0 12 ++ bitsFrom 16 25, v.getLsbD j = old.getLsbD j) →
      s.i2c.pe = true → start = true → stop = true →
      exec (.wrI2cCr2 raw) s = .refused .startAndStop) ∧
    (SetsOnly raw defined →
      (old.getLsbD 13 = true → ∀ j ∈ bitsFrom 0 12 ++ bitsFrom 16 25, v.getLsbD j = old.getLsbD j) →
      ¬(s.i2c.pe = true ∧ start = true ∧ stop = true) →
      ∃ w : Word, exec (.wrI2cCr2 raw) s = .next { s with
          i2c := { s.i2c with
            cr2 := w
            isr := { s.i2c.isr with
              tc := if s.i2c.pe ∧ (v.getLsbD 13 ∨ v.getLsbD 14) then false else s.i2c.isr.tc } } } ∧
        w.getLsbD 13 = start ∧ w.getLsbD 14 = stop ∧ ∀ j, j ≠ 13 → j ≠ 14 → w.getLsbD j = v.getLsbD j)

/-- R224 (with R203's guard), R228 and R230: the writes of TIMINGR, ICR and TXDR. A write of TXDR lets SCL go on
in I_TXWAIT (R204). -/
def Obligations.I2cOtherWrites : Prop :=
  ∀ (s : State) (raw : Word),
    let l := s.params.layout
    (let v := fromBus l .i2cTimingr raw;
      (¬SetsOnly raw l.i2cTimingr.pos → exec (.wrI2cTimingr raw) s = .refused .reservedBit) ∧
      (SetsOnly raw l.i2cTimingr.pos → s.i2c.pe = true → v ≠ s.i2c.timingr →
        exec (.wrI2cTimingr raw) s = .refused .configWhileEnabled) ∧
      (SetsOnly raw l.i2cTimingr.pos → (s.i2c.pe = true → v = s.i2c.timingr) →
        exec (.wrI2cTimingr raw) s = .next { s with i2c := { s.i2c with timingr := v } })) ∧
    (let v := fromBus l .i2cIcr raw;
      (¬SetsOnly raw l.i2cIcr.pos → exec (.wrI2cIcr raw) s = .refused .reservedBit) ∧
      (SetsOnly raw l.i2cIcr.pos →
        exec (.wrI2cIcr raw) s = .next { s with
          i2c := { s.i2c with
            isr := { s.i2c.isr with
              nackf := if v.getLsbD 4 then false else s.i2c.isr.nackf
              stopf := if v.getLsbD 5 then false else s.i2c.isr.stopf
              arlo := if v.getLsbD 9 then false else s.i2c.isr.arlo } } })) ∧
    (let v := fromBus l .i2cTxdr raw;
      (¬SetsOnly raw l.i2cTxdr.pos → exec (.wrI2cTxdr raw) s = .refused .reservedBit) ∧
      (SetsOnly raw l.i2cTxdr.pos → s.i2c.pe = false → exec (.wrI2cTxdr raw) s = .refused .disabled) ∧
      (SetsOnly raw l.i2cTxdr.pos → s.i2c.pe = true → ∃ c : I2c,
        exec (.wrI2cTxdr raw) s = .next { s with i2c := c } ∧
        c = { s.i2c with
          txdr := v.setWidth 8, isr := { s.i2c.isr with txe := false, txis := false }
          scl := c.scl, draws := c.draws }))

/-- R207 and R208: the bytes of the address phase, when every one is acknowledged, and their order on the bus. -/
def Obligations.I2cAddressBytes : Prop :=
  ∀ s : State, s.i2c.phase = .addr →
    let sadd := (s.i2c.cr2.extractLsb' 0 10).toNat
    let header := 8 * 0b11110 + 2 * (sadd / 256)
    ∃ t : State, exec (.evI2cAddr true false) s = .next t ∧
      (s.i2c.cr2.getLsbD 11 = false → s.i2c.cr2.getLsbD 10 = false →
        t.i2c.wire = [.sent (BitVec.ofNat 8 (2 * (sadd / 2 % 128))), .targetAck]) ∧
      (s.i2c.cr2.getLsbD 11 = false → s.i2c.cr2.getLsbD 10 = true →
        t.i2c.wire = [.sent (BitVec.ofNat 8 (2 * (sadd / 2 % 128) + 1)), .targetAck]) ∧
      (s.i2c.cr2.getLsbD 11 = true → s.i2c.cr2.getLsbD 10 = false →
        t.i2c.wire = [.sent (BitVec.ofNat 8 header), .targetAck,
          .sent (BitVec.ofNat 8 (sadd % 256)), .targetAck]) ∧
      (s.i2c.cr2.getLsbD 11 = true → s.i2c.cr2.getLsbD 10 = true → s.i2c.cr2.getLsbD 12 = false →
        t.i2c.wire = [.sent (BitVec.ofNat 8 header), .targetAck, .sent (BitVec.ofNat 8 (sadd % 256)),
          .targetAck, .repeatedStart, .sent (BitVec.ofNat 8 (header + 1)), .targetAck]) ∧
      (s.i2c.cr2.getLsbD 11 = true → s.i2c.cr2.getLsbD 10 = true → s.i2c.cr2.getLsbD 12 = true →
        t.i2c.wire = [.sent (BitVec.ofNat 8 (header + 1)), .targetAck])

/-- The line protocol (R202, R46), on the model's record of the bus (log entries 7, 9). A line is 1 exactly when every
device releases it; SDA falls while SCL is 1 in a START, rises in a STOP, and in a byte or an acknowledge slot
never changes while SCL is 1; a byte that is sent or received is seen by its receiver most significant bit
first, and then the acknowledge slot, which the receiver of the byte drives: 0 for ACK. -/
def Obligations.I2cLineProtocol : Prop :=
  (∀ drivers : List Bool, lineLevel drivers = true ↔ ∀ d ∈ drivers, d = true) ∧
  linesOf .start = [{ scl := true, sda := true }, { scl := true, sda := false }] ∧
  (linesOf .repeatedStart).tail = linesOf .start ∧
  (linesOf .stop).tail = [{ scl := true, sda := false }, { scl := true, sda := true }] ∧
  (∀ a : BusAct, a ∉ [BusAct.start, .repeatedStart, .stop] → ∀ (k : Nat) (x y : BusLevels),
    (linesOf a)[k]? = some x → (linesOf a)[k + 1]? = some y → x.scl = true → y.scl = true → x.sda = y.sda) ∧
  (∀ (s : State) (ack : Bool), s.i2c.phase = .txWait → s.i2c.isr.txe = false →
    ∃ t : State, exec (.evI2cTxByte ack false) s = .next t ∧
      (∀ k < 8, t.i2c.sdaSamples[k]? = some (s.i2c.txdr.getLsbD (7 - k))) ∧
      t.i2c.sdaSamples[8]? = some (!ack)) ∧
  (∀ (s : State) (data : Byte), s.i2c.phase = .rxByte → s.i2c.isr.rxne = false →
    ∃ t : State, exec (.evI2cRxByte data) s = .next t ∧
      (∀ k < 8, t.i2c.sdaSamples[k]? = some (data.getLsbD (7 - k))) ∧
      t.i2c.sdaSamples[8]? = some (decide (s.i2c.remaining ≤ 1))) ∧
  (∀ (s : State) (ack : Bool), s.i2c.phase = .addr → s.i2c.cr2.getLsbD 11 = false →
    ∃ t : State, exec (.evI2cAddr ack false) s = .next t ∧
      (∀ k < 7, t.i2c.sdaSamples[k]? = some (s.i2c.cr2.getLsbD (7 - k))) ∧
      t.i2c.sdaSamples[7]? = some (s.i2c.cr2.getLsbD 10) ∧ t.i2c.sdaSamples[8]? = some (!ack))

/-- S_START (R209): a START from I_IDLE with BUSY = 0 or a repeated START from I_TC. R209 writes only BUSY; that
TC goes to 0 with the phase, as R205 says of it, is log entry 17. -/
def Obligations.I2cStartStep : Prop :=
  ∀ s : State, s.i2c.pe = true → s.i2c.cr2.getLsbD 13 = true →
    s.i2c.phase = .idle ∧ s.i2c.isr.busy = false ∨ s.i2c.phase = .tc →
    (s.i2c.cr2.getLsbD 24 = true ∨ s.i2c.cr2.getLsbD 25 = true →
      exec .evI2cStart s = .refused .reloadAutoend) ∧
    (s.i2c.cr2.getLsbD 24 = false → s.i2c.cr2.getLsbD 25 = false → ∃ c : I2c,
      exec .evI2cStart s = .next { s with i2c := c } ∧
      c = { s.i2c with
        isr := { s.i2c.isr with busy := true, tc := false }
        remaining := (s.i2c.cr2.extractLsb' 16 8).toNat, phase := .addr
        wire := if s.i2c.phase = .tc then [.repeatedStart] else [.start]
        scl := c.scl, sda := c.sda, draws := c.draws })

/-- R210, R211, R216, R217: the address phase ends in a lost arbitration, in a STOP after a NACK, or in the
phase of the transfer; and BUS_FREE ends a lost arbitration. -/
def Obligations.I2cAddressStep : Prop :=
  ∀ s : State,
    (s.i2c.phase = .lost →
      exec .evI2cBusFree s = .next { s with
        i2c := { s.i2c with isr := { s.i2c.isr with busy := false }, phase := .idle } }) ∧
    (s.i2c.phase = .addr → ∀ ack lost : Bool, ∃ c : I2c,
      exec (.evI2cAddr ack lost) s = .next { s with i2c := c } ∧
      (∀ j, c.cr2.getLsbD j = (s.i2c.cr2.getLsbD j && decide (j ≠ 13))) ∧
      (lost = true →
        c = { s.i2c with
          cr2 := c.cr2, isr := { s.i2c.isr with arlo := true, txis := false, tc := false }
          remaining := 0, phase := .lost, scl := true, sda := true, wire := c.wire, draws := c.draws } ∧
        ∃ acts, c.wire = acts ++ [.released]) ∧
      (lost = false → ack = false →
        c = { s.i2c with
          cr2 := c.cr2
          isr := { s.i2c.isr with nackf := true, stopf := true, busy := false, txis := false, tc := false }
          remaining := 0, phase := .idle, scl := c.scl, sda := c.sda, wire := c.wire, draws := c.draws } ∧
        ∃ acts, c.wire = acts ++ [.stop]) ∧
      (lost = false → ack = true → s.i2c.remaining = 0 →
        c = { s.i2c with
          cr2 := c.cr2, isr := { s.i2c.isr with tc := true }, phase := .tc
          scl := c.scl, sda := c.sda, wire := c.wire, draws := c.draws }) ∧
      (lost = false → ack = true → 0 < s.i2c.remaining → s.i2c.cr2.getLsbD 10 = false →
        c = { s.i2c with
          cr2 := c.cr2
          isr := { s.i2c.isr with txis := if s.i2c.isr.txe then true else s.i2c.isr.txis }
          phase := .txWait, scl := c.scl, sda := c.sda, wire := c.wire, draws := c.draws }) ∧
      (lost = false → ack = true → 0 < s.i2c.remaining → s.i2c.cr2.getLsbD 10 = true →
        c = { s.i2c with
          cr2 := c.cr2, phase := .rxByte
          scl := c.scl, sda := c.sda, wire := c.wire, draws := c.draws }))

/-- R212: S_TXBYTE sends the waiting byte; `lost` is tested before `ack`. -/
def Obligations.I2cTxByteStep : Prop :=
  ∀ (s : State) (ack lost : Bool), s.i2c.phase = .txWait → s.i2c.isr.txe = false → 0 < s.i2c.remaining →
    ∃ c : I2c, exec (.evI2cTxByte ack lost) s = .next { s with i2c := c } ∧
      (lost = true →
        c = { s.i2c with
          isr := { s.i2c.isr with txe := true, arlo := true, txis := false, tc := false }
          shift := s.i2c.txdr, remaining := 0, phase := .lost, scl := true, sda := true
          wire := c.wire, draws := c.draws } ∧
        ∃ acts, c.wire = acts ++ [.released]) ∧
      (lost = false → ack = false →
        c = { s.i2c with
          isr := { s.i2c.isr with
            txe := true, nackf := true, stopf := true, busy := false, txis := false, tc := false }
          shift := s.i2c.txdr, remaining := 0, phase := .idle
          scl := c.scl, sda := c.sda, wire := [.sent s.i2c.txdr, .targetNack, .stop] }) ∧
      (lost = false → ack = true → 1 < s.i2c.remaining →
        c = { s.i2c with
          isr := { s.i2c.isr with txe := true, txis := true }
          shift := s.i2c.txdr, remaining := s.i2c.remaining - 1
          scl := c.scl, sda := c.sda, wire := [.sent s.i2c.txdr, .targetAck], draws := c.draws }) ∧
      (lost = false → ack = true → s.i2c.remaining = 1 →
        c = { s.i2c with
          isr := { s.i2c.isr with txe := true, tc := true }
          shift := s.i2c.txdr, remaining := 0, phase := .tc
          scl := c.scl, sda := c.sda, wire := [.sent s.i2c.txdr, .targetAck], draws := c.draws })

/-- R213 and R215: S_RXBYTE receives a byte, acknowledges it while bytes are left and not after the last; S_STOP
ends the transfer, and a byte still in TXDR stays there. -/
def Obligations.I2cRxByteAndStopSteps : Prop :=
  (∀ (s : State) (data : Byte), s.i2c.phase = .rxByte → s.i2c.isr.rxne = false → 0 < s.i2c.remaining →
    ∃ c : I2c, exec (.evI2cRxByte data) s = .next { s with i2c := c } ∧
      (1 < s.i2c.remaining →
        c = { s.i2c with
          isr := { s.i2c.isr with rxne := true }
          shift := data, rxdr := data, remaining := s.i2c.remaining - 1
          wire := [.received data, .ack], scl := c.scl, sda := c.sda, draws := c.draws }) ∧
      (s.i2c.remaining = 1 →
        c = { s.i2c with
          isr := { s.i2c.isr with rxne := true, tc := true }
          shift := data, rxdr := data, remaining := 0, phase := .tc
          wire := [.received data, .nack], scl := c.scl, sda := c.sda, draws := c.draws })) ∧
  (∀ s : State, s.i2c.pe = true → s.i2c.cr2.getLsbD 14 = true →
    s.i2c.phase = .tc ∨ s.i2c.phase = .txWait ∨ s.i2c.phase = .rxByte →
    ∃ c : I2c, exec .evI2cStop s = .next { s with i2c := c } ∧
      (∀ j, c.cr2.getLsbD j = (s.i2c.cr2.getLsbD j && decide (j ≠ 14))) ∧
      c = { s.i2c with
        cr2 := c.cr2
        isr := { s.i2c.isr with stopf := true, busy := false, tc := false, txis := false }
        remaining := 0, phase := .idle, wire := [.stop], scl := c.scl, sda := c.sda })

/-- R362: between a HOST's read of CR2 that saw START = 1 and its write-back, the address phase clears START; the
write-back requests a second START, and with the STOP bit set in the same write it is refused. A driver that
masks bits 13 and 14 out of what it writes back is immune. -/
def Obligations.ReadModifyWriteReissuesStart : Prop :=
  ∀ (s : State) (ack lost : Bool), ParamsValid s.params → I2cInv s.i2c → s.i2c.pe = true →
    s.i2c.phase = .addr →
    let mask := toBus s.params.layout .i2cCr2
    (∃ t : State, (setBits .i2cCr2 0#32).run [[], [.evI2cAddr ack lost]] s = .next ((), t) ∧
      t.i2c.cr2.getLsbD 13 = true) ∧
    (setBits .i2cCr2 (mask 0x00004000#32)).run [[], [.evI2cAddr ack lost]] s = .refused .startAndStop ∧
    (∃ t : State, (clearBits .i2cCr2 (mask 0x00006000#32)).run [[], [.evI2cAddr ack lost]] s = .next ((), t) ∧
      t.i2c.cr2.getLsbD 13 = false)

/-! ### SPI (43_spi.md) -/

/-- The SPI's registers as HOST reads them, as they stand on the bus under the layout: R271, R273, and R254 with
the value R253 gives. -/
def Obligations.SpiReads : Prop :=
  ∀ s : State,
    let bus := toBus s.params.layout
    exec .rdSpiCr1 s = .next { s with rdata := bus .spiCr1 s.spi.cr1 } ∧
    exec .rdSpiCr2 s = .next { s with rdata := bus .spiCr2 s.spi.cr2 } ∧
    ∃ v : Word,
      exec .rdSpiSr s = .next { s with
        spi := { s.spi with
          ovr := if s.spi.ovrSeq then false else s.spi.ovr
          ovrSeq := false
          modfSeq := if s.spi.modf then true else s.spi.modfSeq }
        rdata := bus .spiSr v } ∧
      (s.spi.cr2.getLsbD 12 = true → v.getLsbD 0 = decide (1 ≤ s.spi.rxf.length)) ∧
      (s.spi.cr2.getLsbD 12 = false → v.getLsbD 0 = decide (2 ≤ s.spi.rxf.length)) ∧
      v.getLsbD 1 = decide (s.spi.txf.length ≤ 2) ∧ v.getLsbD 4 = false ∧ v.getLsbD 5 = s.spi.modf ∧
      v.getLsbD 6 = s.spi.ovr ∧
      v.getLsbD 7 = (s.spi.cr1.getLsbD 6 && (s.spi.sh.busy || decide (0 < s.spi.txf.length))) ∧
      (v.extractLsb' 9 2).toNat = min s.spi.rxf.length 3 ∧
      (v.extractLsb' 11 2).toNat = min s.spi.txf.length 3 ∧
      SetsOnly v ([0, 1, 5, 6, 7] ++ bitsFrom 9 12)

/-- R255 and R256: an 8-bit write of DR pushes one byte, a 16-bit write two, the low one first; an 8-bit read pops one
byte, a 16-bit read two, the first popped the low one; a read with OVR = 1 begins the clearing sequence. The
frame is two bytes wide when DS is 8 or more (R251). -/
def Obligations.SpiDrAccesses : Prop :=
  ∀ s : State,
    let ds := (s.spi.cr2.extractLsb' 8 4).toNat
    let begun := if s.spi.ovr then true else s.spi.ovrSeq
    (∀ v : Byte,
      (8 ≤ ds → exec (.wr8SpiDr v) s = .refused .widthVsFrame) ∧
      (ds < 8 → 4 ≤ s.spi.txf.length → exec (.wr8SpiDr v) s = .refused .txFifoOverflow) ∧
      (ds < 8 → s.spi.txf.length < 4 →
        exec (.wr8SpiDr v) s = .next { s with spi := { s.spi with txf := s.spi.txf ++ [v] } })) ∧
    (∀ v : BitVec 16,
      (3 ≤ s.spi.txf.length → exec (.wr16SpiDr v) s = .refused .txFifoOverflow) ∧
      (s.spi.txf.length ≤ 2 →
        exec (.wr16SpiDr v) s = .next { s with
          spi := { s.spi with txf := s.spi.txf ++ [v.extractLsb' 0 8, v.extractLsb' 8 8] } })) ∧
    (8 ≤ ds → exec .rd8SpiDr s = .refused .widthVsFrame) ∧
    (ds < 8 → s.spi.rxf = [] → exec .rd8SpiDr s = .refused .rxFifoUnderflow) ∧
    (ds < 8 → ∀ a rest, s.spi.rxf = a :: rest →
      exec .rd8SpiDr s = .next { s with
        spi := { s.spi with rxf := rest, ovrSeq := begun }, rdata := a.setWidth 32 }) ∧
    (s.spi.rxf.length < 2 → exec .rd16SpiDr s = .refused .rxFifoUnderflow) ∧
    (∀ a b rest, s.spi.rxf = a :: b :: rest →
      exec .rd16SpiDr s = .next { s with
        spi := { s.spi with rxf := rest, ovrSeq := begun }, rdata := (b ++ a).setWidth 32 })

/-- R270 and R272: the writes of CR1 and CR2, the checks in their order (R259), the fault recorded (R274), then
the write. The model's choice is that after the fault the write takes place and that the shifter, the transmit FIFO
and MOSI alone are free (log entry 14). -/
def Obligations.SpiControlWrites : Prop :=
  ∀ (s : State) (raw : Word),
    let l := s.params.layout
    let old := s.spi.cr1
    let ds := (s.spi.cr2.extractLsb' 8 4).toNat
    (let v := fromBus l .spiCr1 raw;
      let busy := v.getLsbD 6 = false ∧ old.getLsbD 6 = true ∧ (s.spi.sh.busy = true ∨ s.spi.txf ≠ [])
      let modf := if s.spi.modfSeq then false else s.spi.modf
      let sck := if v.getLsbD 6 then s.spi.sck else v.getLsbD 1
      (¬SetsOnly raw l.spiCr1.pos → exec (.wrSpiCr1 raw) s = .refused .reservedBit) ∧
      (SetsOnly raw l.spiCr1.pos →
        (v.getLsbD 12 = true → exec (.wrSpiCr1 raw) s = .refused .crcPhase) ∧
        (v.getLsbD 12 = false → v.getLsbD 6 = true → v.getLsbD 2 = false →
          exec (.wrSpiCr1 raw) s = .refused .slaveMode) ∧
        (v.getLsbD 12 = false → v.getLsbD 6 = true → v.getLsbD 2 = true → old.getLsbD 6 = true →
          (∃ j, j ≠ 6 ∧ v.getLsbD j ≠ old.getLsbD j) → exec (.wrSpiCr1 raw) s = .refused .configWhileEnabled) ∧
        (v.getLsbD 12 = false →
          (v.getLsbD 6 = true → v.getLsbD 2 = true ∧
            (old.getLsbD 6 = true → ∀ j, j ≠ 6 → v.getLsbD j = old.getLsbD j)) →
          (¬busy →
            exec (.wrSpiCr1 raw) s = .next { s with
              spi := { s.spi with cr1 := v, modf := modf, modfSeq := false, sck := sck } }) ∧
          (busy → ∃ c : Spi, exec (.wrSpiCr1 raw) s = .next { s with spi := c } ∧
            c = { s.spi with
              cr1 := v, modf := modf, modfSeq := false, sck := sck
              fault := some .disabledWhileBusy, torn := true
              sh := c.sh, txf := c.txf, mosi := c.mosi, tears := c.tears })))) ∧
    (let v := fromBus l .spiCr2 raw;
      let wide := if (v.extractLsb' 8 4).toNat < 3 then 7 else (v.extractLsb' 8 4).toNat
      (¬SetsOnly raw l.spiCr2.pos → exec (.wrSpiCr2 raw) s = .refused .reservedBit) ∧
      (SetsOnly raw l.spiCr2.pos →
        (old.getLsbD 6 = true → wide ≠ ds ∨ v.getLsbD 12 ≠ s.spi.cr2.getLsbD 12 →
          exec (.wrSpiCr2 raw) s = .refused .configWhileEnabled) ∧
        (old.getLsbD 6 = false → s.spi.txf ≠ [] ∨ s.spi.rxf ≠ [] → wide ≠ ds →
          exec (.wrSpiCr2 raw) s = .refused .configWithData) ∧
        ((old.getLsbD 6 = true → v.getLsbD 12 = s.spi.cr2.getLsbD 12) →
          (old.getLsbD 6 = true ∨ s.spi.txf ≠ [] ∨ s.spi.rxf ≠ [] → wide = ds) →
          ∃ w : Word, exec (.wrSpiCr2 raw) s = .next { s with spi := { s.spi with cr2 := w } } ∧
            (w.extractLsb' 8 4).toNat = wide ∧ w.getLsbD 12 = v.getLsbD 12 ∧ SetsOnly w (bitsFrom 8 12))))

/-- R263, R264, R265: S_LOAD takes a frame from the transmit FIFO; S_BIT exchanges one bit; the last bit
delivers the frame, or loses it and sets OVR. That the frame holds the bit the same step captured is the model's
choice, against the letter of R9 (log entry 23). R267: the
internal slave-select is SSI when SSM = 1 and the pin otherwise; low in master mode, it sets MODF, clears SPE and
MSTR and abandons the frame in flight. What the record of SCK and MOSI holds is log entry 25. -/
def Obligations.SpiShiftSteps : Prop :=
  ∀ s : State, s.spi.cr1.getLsbD 6 = true →
    let n := (s.spi.cr2.extractLsb' 8 4).toNat + 1
    let bytes := if n ≤ 8 then 1 else 2
    let period := fun b : Bool => [(s.spi.cr1.getLsbD 1 != s.spi.cr1.getLsbD 0, b),
      (s.spi.cr1.getLsbD 1 == s.spi.cr1.getLsbD 0, b)]
    (s.spi.cr1.getLsbD 2 = true → s.spi.sh.busy = false → ∀ frame : BitVec 16,
      (∀ a rest, s.spi.txf = a :: rest → n ≤ 8 → frame.toNat = a.toNat % 2 ^ n →
        exec .evSpiLoad s = .next { s with
          spi := { s.spi with
            txf := rest, wave := []
            sh := { busy := true, tx := frame, rx := 0#16, cnt := 0 } } }) ∧
      (∀ a b rest, s.spi.txf = a :: b :: rest → 8 < n → frame.toNat = (256 * b.toNat + a.toNat) % 2 ^ n →
        exec .evSpiLoad s = .next { s with
          spi := { s.spi with
            txf := rest, wave := []
            sh := { busy := true, tx := frame, rx := 0#16, cnt := 0 } } })) ∧
    (s.spi.sh.busy = true → s.spi.sh.cnt < n → ∀ (m : Bool) (rx : BitVec 16),
      let i := if s.spi.cr1.getLsbD 7 then s.spi.sh.cnt else n - 1 - s.spi.sh.cnt
      (∀ j < 16, rx.getLsbD j = if j = i then m else s.spi.sh.rx.getLsbD j) →
      (s.spi.sh.cnt + 1 < n →
        exec (.evSpiBit m) s = .next { s with
          spi := { s.spi with
            mosi := s.spi.sh.tx.getLsbD i, wave := s.spi.wave ++ period (s.spi.sh.tx.getLsbD i)
            sh := { s.spi.sh with rx := rx, cnt := s.spi.sh.cnt + 1 } } }) ∧
      (s.spi.sh.cnt + 1 = n →
        exec (.evSpiBit m) s = .next { s with
          spi := { s.spi with
            mosi := s.spi.sh.tx.getLsbD i, wave := s.spi.wave ++ period (s.spi.sh.tx.getLsbD i)
            sh := { s.spi.sh with rx := rx, busy := false, cnt := 0 }
            sck := s.spi.cr1.getLsbD 1
            rxf := if s.spi.rxf.length + bytes ≤ 4 then
                s.spi.rxf ++ [rx.extractLsb' 0 8, rx.extractLsb' 8 8].take bytes
              else s.spi.rxf
            ovr := if s.spi.rxf.length + bytes ≤ 4 then s.spi.ovr else true } })) ∧
    (s.spi.cr1.getLsbD 2 = true → ∀ nssIn : Bool,
      let nss := if s.spi.cr1.getLsbD 9 then s.spi.cr1.getLsbD 8 else nssIn
      (nss = true → exec (.evSpiModf nssIn) s = .next s) ∧
      (nss = false → ∃ w : Word,
        exec (.evSpiModf nssIn) s = .next { s with
          spi := { s.spi with
            cr1 := w, modf := true, sh := { s.spi.sh with busy := false, cnt := 0 }
            sck := s.spi.cr1.getLsbD 1 } } ∧
        ∀ j, w.getLsbD j = (s.spi.cr1.getLsbD j && decide (j ≠ 2) && decide (j ≠ 6))))

/-- A whole frame exchanged (R257, R261 to R265): after S_LOAD and as many S_BIT steps as the frame has bits,
MOSI has carried the frame in the order LSBFIRST says, the bits from MISO make the received frame in the
same order, and it is delivered to the receive FIFO or lost with OVR set. That it holds the bit captured last is the
model's choice (log entry 23). -/
def Obligations.SpiFrameExchange : Prop :=
  ∀ (s : State) (miso : List Bool), SpiInv s.spi → s.spi.loadEnabled = true →
    miso.length = s.spi.frameBits →
    let n := s.spi.frameBits
    let lsb := s.spi.cr1.getLsbD 7
    let sent : BitVec 16 := if n ≤ 8 then (s.spi.txf.headD 0#8).setWidth 16
      else s.spi.txf.tail.headD 0#8 ++ s.spi.txf.headD 0#8
    (∀ k < n, ∃ t : State, runOps (.evSpiLoad :: (miso.take (k + 1)).map .evSpiBit) s = .next t ∧
      t.spi.mosi = sent.getLsbD (exchangedBit lsb n k)) ∧
    ∃ (t : State) (f : BitVec 16), runOps (.evSpiLoad :: miso.map .evSpiBit) s = .next t ∧
      (∀ k < n, some (f.getLsbD (exchangedBit lsb n k)) = miso[k]?) ∧ (∀ j, n ≤ j → f.getLsbD j = false) ∧
      t.spi.sh.busy = false ∧ t.spi.txf = s.spi.txf.drop s.spi.frameBytes ∧
      (s.spi.rxf.length + s.spi.frameBytes ≤ 4 →
        t.spi.rxf = s.spi.rxf ++ [f.extractLsb' 0 8, f.extractLsb' 8 8].take s.spi.frameBytes ∧
        t.spi.ovr = s.spi.ovr) ∧
      (4 < s.spi.rxf.length + s.spi.frameBytes → t.spi.rxf = s.spi.rxf ∧ t.spi.ovr = true)

/-- R258: the SCK frequency, the N periods of a frame, and the four combinations of CPOL and CPHA: the idle
level, the edge at which both sides capture, the edge at which both sides change their output, and whether the
first bit is out before the first edge; in the table's words and in what a frame does to SCK and MOSI, half a
period an entry of the model's record (log entry 25). -/
def Obligations.SpiClockEdges : Prop :=
  (∀ (f : Nat) (v : Word),
    (SpiCr1.sckHz f v = f / 2 ^ ((v.extractLsb' 3 3).toNat + 1)) ∧
    2 ≤ 2 ^ ((v.extractLsb' 3 3).toNat + 1) ∧ 2 ^ ((v.extractLsb' 3 3).toNat + 1) ≤ 256 ∧
    (v.getLsbD 1, v.getLsbD 0, SpiCr1.capturesFirstEdge v, SpiCr1.capturesRising v, SpiCr1.changesFirstEdge v,
        SpiCr1.changesRising v, SpiCr1.firstBitBeforeEdge v) ∈
      [(false, false, true, true, false, false, true), (false, true, false, false, true, true, false),
       (true, false, true, false, false, true, true), (true, true, false, true, true, false, false)]) ∧
  ∀ (s : State) (miso : List Bool), SpiInv s.spi → s.spi.loadEnabled = true →
    miso.length = s.spi.frameBits →
    ∃ t : State, runOps (.evSpiLoad :: miso.map .evSpiBit) s = .next t ∧
      t.spi.sck = s.spi.cr1.getLsbD 1 ∧ t.spi.wave.length = 2 * s.spi.frameBits ∧
      ∀ k < s.spi.frameBits, ∃ first second : Bool × Bool,
        t.spi.wave[2 * k]? = some first ∧ t.spi.wave[2 * k + 1]? = some second ∧
        first.2 = second.2 ∧ second.1 = !first.1 ∧
        (first.1 = s.spi.cr1.getLsbD 1 ↔ s.spi.cr1.getLsbD 0 = false)

/-- R268: the clearing sequences of OVR and MODF, which no operation in between cancels; CRCERR never reads 1. -/
def Obligations.SpiClearingSequences : Prop :=
  ∀ (i : Instr) (s t : State), exec i s = .next t →
    (s.spi.ovr = true → i = .rd8SpiDr ∨ i = .rd16SpiDr → t.spi.ovrSeq = true) ∧
    (s.spi.ovrSeq = true → i ≠ .rdSpiSr → t.spi.ovrSeq = true) ∧
    (s.spi.ovrSeq = true → i = .rdSpiSr → t.spi.ovr = false ∧ t.spi.ovrSeq = false) ∧
    (s.spi.modf = true → i = .rdSpiSr → t.spi.modfSeq = true) ∧
    (s.spi.modfSeq = true → (∀ v, i ≠ .wrSpiCr1 v) → t.spi.modfSeq = true) ∧
    (s.spi.modfSeq = true → (∃ v, i = .wrSpiCr1 v) → t.spi.modf = false ∧ t.spi.modfSeq = false) ∧
    (i = .rdSpiSr → (Spi.statusWord s.spi).getLsbD 4 = false ∧
      t.rdata = toBus s.params.layout .spiSr (Spi.statusWord s.spi))

/-! ### NVIC (44_nvic.md) -/

/-- R302, R303, R304, R305: the accesses of ISER[r] and IPR[n], with every other register and input unchanged. The
numbers of lines, registers and priority bits are the parameters of log entry 2. -/
def Obligations.NvicAccesses : Prop :=
  ∀ s : State,
    (∀ (r : BitVec 4) (v : Word),
      (s.params.nIser ≤ r.toNat → exec (.rdNvicIser r) s = .refused .indexOutOfRange ∧
        exec (.wrNvicIser r v) s = .refused .indexOutOfRange) ∧
      (r.toNat < s.params.nIser →
        exec (.rdNvicIser r) s = .next { s with rdata := s.nvic.iser[r.toNat] } ∧
        ∃ iser, exec (.wrNvicIser r v) s = .next { s with nvic := { s.nvic with iser := iser } } ∧
          ∀ k : Fin 16, iser[k] = if k.val = r.toNat then s.nvic.iser[k] ||| v else s.nvic.iser[k])) ∧
    (∀ (n : BitVec 9) (v : Byte),
      let unit := 2 ^ (8 - s.params.prioBits)
      (s.params.nLines ≤ n.toNat → exec (.rdNvicIpr n) s = .refused .indexOutOfRange ∧
        exec (.wrNvicIpr n v) s = .refused .indexOutOfRange) ∧
      (n.toNat < s.params.nLines →
        exec (.rdNvicIpr n) s = .next { s with rdata := s.nvic.ipr[n.toNat].setWidth 32 } ∧
        (NvicInv s.params s.nvic → s.nvic.ipr[n.toNat].toNat % unit = 0) ∧
        ∃ ipr, exec (.wrNvicIpr n v) s = .next { s with nvic := { s.nvic with ipr := ipr } } ∧
          ∀ k : Fin 512, ipr[k] =
            if k.val = n.toNat then BitVec.ofNat 8 (v.toNat / unit * unit) else s.nvic.ipr[k]))

/-- The event of R308: it sets one input and no register. That an index past the last line is refused is the model's
choice (log entry 5): R307 speaks of accesses only. -/
def Obligations.NvicPendEvent : Prop :=
  ∀ (s : State) (n : BitVec 9) (level : Bool),
    (n.toNat < s.params.nLines →
      ∃ pend, exec (.evNvicPend n level) s = .next { s with nvic := { s.nvic with pend := pend } } ∧
        ∀ k : Fin 512, pend[k] = if k.val = n.toNat then level else s.nvic.pend[k]) ∧
    (s.params.nLines ≤ n.toNat → exec (.evNvicPend n level) s = .refused .indexOutOfRange)

/-- R306: a request is presented exactly when a pending line is enabled, and the line presented is the one with
the smallest priority byte, among equals the smallest index; with no candidate it is free (log entry 8). -/
def Obligations.NvicOutputs : Prop :=
  ∀ (p : Params) (v : Nvic),
    let cand := fun n : Fin 512 =>
      n.val < p.nLines ∧ v.pend[n] = true ∧ (v.iser[n.val / 32]?.getD 0#32).getLsbD (n.val % 32) = true
    (v.irqReq p = true ↔ ∃ n, cand n) ∧
    ∀ n, cand n →
      (∀ m, cand m → v.ipr[n].toNat < v.ipr[m].toNat ∨ v.ipr[n] = v.ipr[m] ∧ n ≤ m) →
      ∀ k, (v.irqLine p k).toNat = n.val

/-- R301 and R309: the enable bit and the priority byte of a line, the boundary pairs of R301, and the reference
`enable` and `set_priority`: they reach the line they name and no other, and issue nothing when the
index is out of range. -/
def Obligations.NvicDriverReachesTheLine : Prop :=
  (∀ (v : Nvic) (i : Fin 512) (r : Fin 16), r.val = i.val / 32 →
    v.enabled i = v.iser[r].getLsbD (i.val % 32) ∧ v.priority i = v.ipr[i]) ∧
  [0, 31, 32, 479].map (fun i => (i / 32, i % 32)) = [(0, 0), (0, 31), (1, 0), (14, 31)] ∧
  (∀ (s : State) (i : Nat) (priority sub : Byte), ParamsValid s.params →
    let unit := 2 ^ (8 - s.params.prioBits)
    let byte := (priority <<< s.params.pShift) ||| (sub &&& s.params.subMask)
    (s.params.nLines ≤ i →
      nvicEnable s.params i = .done none ∧ nvicSetPriority s.params i priority sub = .done none) ∧
    (i < s.params.nLines →
      (∃ t : State, (nvicEnable s.params i).run [] s = .next (some (), t) ∧
        ∀ j, t.nvic.enabled j = (s.nvic.enabled j || decide (j = i))) ∧
      ∃ t : State, (nvicSetPriority s.params i priority sub).run [] s = .next (some (), t) ∧
        ∀ j, t.nvic.priority j =
          if j = i then BitVec.ofNat 8 (byte.toNat / unit * unit) else s.nvic.priority j))

/-! ### Register access primitives (40_regaccess.md) -/

/-- R134, R135, R136, R137 and, of R138, the expansion: on an address, the pseudo-operations are the bus
operations the rules list, in their order, with any steps of other agents between them; where the access at the
address is refused (R106), so are they, the write's refusal after the read. The width of a mask of 0 or one with
gaps is the model's choice (log entry 26). A bound of infinity is every bound (log entry 12). -/
def Obligations.AccessPrimitives : Prop :=
  ∀ (p : Params) (base : Blk → Word) (addr mask value : Word) (offset : Nat) (before between : List Instr)
    (s s1 : State), runOps before s = .next s1 →
    let port := RegPort.atAddress p base addr
    let fits := offset + maskWidth mask ≤ 32
    let updates : List (HostProg Unit × (Word → Word)) :=
      [(setBits port mask, fun old => old ||| mask), (clearBits port mask, fun old => old &&& ~~~mask)] ++
      if fits then [(writeField port offset mask value, fun old =>
        (old &&& ~~~(mask <<< offset)) ||| ((value &&& mask) <<< offset))] else []
    (¬fits → (writeField port offset mask value).run [before, between] s = .refused .badCommand) ∧
    (∀ r, accessAt p base false .w32 addr 0#32 = .error r →
      (∀ q ∈ updates, q.1.run [before, between] s = .refused (refusalOf r)) ∧
      (readField port offset mask).run [before] s = .refused (refusalOf r) ∧
      ∀ want bound, (poll port.read mask want bound).run [before] s = .refused (refusalOf r)) ∧
    (∀ (rd : Instr) (s2 : State), accessAt p base false .w32 addr 0#32 = .ok rd → exec rd s1 = .next s2 →
      (∀ q ∈ updates,
        (∀ r, accessAt p base true .w32 addr (q.2 s2.rdata) = .error r →
          q.1.run [before, between] s = .refused (refusalOf r)) ∧
        ∀ wr s3 t, accessAt p base true .w32 addr (q.2 s2.rdata) = .ok wr → runOps between s2 = .next s3 →
          exec wr s3 = .next t → q.1.run [before, between] s = .next ((), t)) ∧
      (readField port offset mask).run [before] s = .next ((s2.rdata >>> offset) &&& mask, s2) ∧
      ∀ want bound later,
        (s2.rdata &&& mask = want →
          (poll port.read mask want bound).run (before :: later) s = .next (true, s2)) ∧
        (s2.rdata &&& mask ≠ want → bound ≤ 1 →
          (poll port.read mask want bound).run (before :: later) s = .next (false, s2)) ∧
        (s2.rdata &&& mask ≠ want → 2 ≤ bound →
          (poll port.read mask want bound).run (before :: later) s =
            (poll port.read mask want (bound - 1)).run later s2))

end
end

