-- ==== Sys2Proof/Laws/Operands.lean ====
section
/-! SUPPORT. Bits and fields: which bits a word sets (10_state.md R20) and where a layout moves them, the
bits of the status words, and the bits of the fields a write stores. -/

namespace Sys2Proof.Machine

/-! ### Masks and lists of bits -/

/-- A word of which only 32 bits need looking at. -/
theorem setsOnly_iff (v : Word) (bits : List Nat) :
    SetsOnly v bits ↔ ∀ j < 32, j ∉ bits → v.getLsbD j = false := by
  constructor
  · intro h j _ hj; exact h j hj
  · intro h j hj
    by_cases hlt : j < 32
    · exact h j hlt hj
    · exact BitVec.getLsbD_of_ge v j (by omega)

/-! ### One-bit words, masks and the layout -/

theorem getLsbD_bitWord (i j : Nat) (b : Bool) (hj : j < 32) :
    (bitWord i b).getLsbD j = (b && decide (j = i)) := by
  cases b
  · simp [bitWord]
  · simp only [bitWord, BitVec.getLsbD_shiftLeft, BitVec.getLsbD_setWidth]
    by_cases h : j = i
    · subst h; simp [hj]
    · by_cases h2 : j < i
      · simp [h2, h]
      · have : j - i ≠ 0 := by omega
        simp [h, this]

theorem getLsbD_bitsMask (bits : List Nat) (j : Nat) (hj : j < 32) :
    (bitsMask bits).getLsbD j = decide (j ∈ bits) := by
  induction bits with
  | nil => simp [bitsMask]
  | cons b bs ih =>
    rw [bitsMask, BitVec.getLsbD_or, ih, getLsbD_bitWord _ _ _ hj]
    simp

/-- The reserved-bit check is the bit list. -/
theorem setsReserved_eq_false_iff (v : Word) (bits : List Nat) :
    setsReserved v (bitsMask bits) = false ↔ SetsOnly v bits := by
  have bit : ∀ j < 32, (v &&& ~~~bitsMask bits).getLsbD j = (v.getLsbD j && !decide (j ∈ bits)) := by
    intro j hj
    rw [BitVec.getLsbD_and, BitVec.getLsbD_not, getLsbD_bitsMask _ j hj, decide_eq_true hj, Bool.true_and]
  rw [setsOnly_iff]
  simp only [setsReserved, bne_eq_false_iff_eq]
  constructor
  · intro h j hj hn
    have h0 := bit j hj
    rw [h, BitVec.getLsbD_zero, decide_eq_false hn] at h0
    simpa using h0.symm
  · intro h
    apply BitVec.eq_of_getLsbD_eq
    intro j hj
    rw [bit j hj, BitVec.getLsbD_zero]
    by_cases hb : j ∈ bits
    · rw [decide_eq_true hb, Bool.not_true, Bool.and_false]
    · rw [h j hj hb, Bool.false_and]

theorem setsReserved_eq_true_iff (v : Word) (bits : List Nat) :
    setsReserved v (bitsMask bits) = true ↔ ¬SetsOnly v bits := by
  rw [← setsReserved_eq_false_iff, Bool.not_eq_false]

/-- Moving bits sets bits of the destination list only. -/
theorem moveBits_setsOnly (src dst : List Nat) (w : Word) : SetsOnly (moveBits src dst w) dst := by
  rw [setsOnly_iff]
  intro j hj hn
  induction src generalizing dst with
  | nil => cases dst <;> simp [moveBits]
  | cons a src ih =>
    cases dst with
    | nil => simp [moveBits]
    | cons b dst =>
      simp only [List.mem_cons, not_or] at hn
      rw [moveBits, BitVec.getLsbD_or, getLsbD_bitWord _ _ _ hj, ih dst hn.2]
      simp [hn.1]

/-- A bus write stores no reserved bit, under any layout (R20). -/
theorem fromBus_setsOnly (l : Layout) (r : Reg) (v : Word) : SetsOnly (fromBus l r v) r.bits :=
  moveBits_setsOnly _ _ _

/-- A bus read shows no reserved bit, under any layout (R20). -/
theorem toBus_setsOnly (l : Layout) (r : Reg) (w : Word) : SetsOnly (toBus l r w) (l.of r).pos :=
  moveBits_setsOnly _ _ _

/-- What stands at the k-th place of the destination is what stood at the k-th of the source. -/
theorem getLsbD_moveBits (src dst : List Nat) (w : Word) (hd : dst.Nodup) (k : Nat) (hs : k < src.length)
    (hk : k < dst.length) (hj : dst[k] < 32) : (moveBits src dst w).getLsbD dst[k] = w.getLsbD src[k] := by
  induction src generalizing dst k with
  | nil => simp at hs
  | cons a src ih =>
    cases dst with
    | nil => simp at hk
    | cons b dst =>
      obtain ⟨hb, hd⟩ := List.nodup_cons.1 hd
      rw [moveBits, BitVec.getLsbD_or]
      cases k with
      | zero =>
        have := moveBits_setsOnly src dst w b hb
        simp only [List.getElem_cons_zero] at hj ⊢
        rw [getLsbD_bitWord _ _ _ hj, this]
        simp
      | succ k =>
        simp only [List.getElem_cons_succ] at hj ⊢
        rw [getLsbD_bitWord _ _ _ hj, ih dst hd k (by simpa using hs) (by simpa using hk) hj]
        have : dst[k]'(by simpa using hk) ≠ b := fun h => hb (h ▸ List.getElem_mem _)
        simp [this]

/-- Moving the bits of a list to themselves keeps those bits and no other. -/
theorem moveBits_self (bits : List Nat) (w : Word) (h : bits.Nodup) (j : Nat) (hj : j < 32) :
    (moveBits bits bits w).getLsbD j = (w.getLsbD j && decide (j ∈ bits)) := by
  by_cases hm : j ∈ bits
  · obtain ⟨k, hk, rfl⟩ := List.getElem_of_mem hm
    rw [getLsbD_moveBits bits bits w h k hk hk hj]; simp
  · rw [moveBits_setsOnly bits bits w j hm]; simp [hm]

/-! ### The status words -/

theorem usartFlags_word_bits (f : UsartFlags) (j : Nat) (hj : j < 32) :
    f.word.getLsbD j =
      (f.fe && decide (j = 1) || f.ore && decide (j = 3) || f.idle && decide (j = 4) ||
        f.rxne && decide (j = 5) || f.tc && decide (j = 6) || f.txe && decide (j = 7) ||
        f.rtof && decide (j = 11)) := by
  simp only [UsartFlags.word, BitVec.getLsbD_or, getLsbD_bitWord _ _ _ hj]

theorem i2cFlags_word_bits (f : I2cFlags) (j : Nat) (hj : j < 32) :
    f.word.getLsbD j =
      (f.txe && decide (j = 0) || f.txis && decide (j = 1) || f.rxne && decide (j = 2) ||
        f.nackf && decide (j = 4) || f.stopf && decide (j = 5) || f.tc && decide (j = 6) ||
        f.arlo && decide (j = 9) || f.busy && decide (j = 15)) := by
  simp only [I2cFlags.word, BitVec.getLsbD_or, getLsbD_bitWord _ _ _ hj]

/-! ### I2C.CR2 as a write stores it (R222) -/

theorem i2cCr2_make_bits (v : Word) (start stop : Bool) (hv : SetsOnly v (bitsFrom 0 14 ++ bitsFrom 16 25))
    (j : Nat) (hj : j < 32) :
    (I2cCr2.make v start stop).getLsbD j =
      if j = 13 then start else if j = 14 then stop else v.getLsbD j := by
  have hmask : ∀ j < 32, (0x03FF1FFF#32).getLsbD j =
      decide (j ∈ bitsFrom 0 12 ++ bitsFrom 16 25) := by decide
  have hlist : ∀ j < 32, j ∈ bitsFrom 0 14 ++ bitsFrom 16 25 →
      j ∈ bitsFrom 0 12 ++ bitsFrom 16 25 ∨ j = 13 ∨ j = 14 := by decide
  have h1314 : 13 ∉ bitsFrom 0 12 ++ bitsFrom 16 25 ∧ 14 ∉ bitsFrom 0 12 ++ bitsFrom 16 25 := by decide
  simp only [I2cCr2.make, I2cCr2.cfg, BitVec.getLsbD_or, BitVec.getLsbD_and, hmask j hj,
    getLsbD_bitWord _ _ _ hj]
  by_cases h13 : j = 13
  · subst h13; simp [h1314.1]
  · by_cases h14 : j = 14
    · subst h14; simp [h1314.2]
    · simp only [h13, h14, if_false, decide_false, Bool.and_false, Bool.or_false]
      by_cases hm : j ∈ bitsFrom 0 12 ++ bitsFrom 16 25
      · simp [hm]
      · rw [hv j fun hin => by rcases hlist j hj hin with h | h | h <;> contradiction]
        simp [hm]

end Sys2Proof.Machine
end

