-- ==== Sys2Proof/Laws/State.lean ====
section
/-! SUPPORT. One lemma per field per update of the machine's state, so that no later proof unfolds a record
update. -/

namespace Sys2Proof.Machine

namespace State

@[simp] theorem respond_params (s : State) (v : Word) : (s.respond v).params = s.params := rfl
@[simp] theorem respond_usart (s : State) (v : Word) : (s.respond v).usart = s.usart := rfl
@[simp] theorem respond_i2c (s : State) (v : Word) : (s.respond v).i2c = s.i2c := rfl
@[simp] theorem respond_spi (s : State) (v : Word) : (s.respond v).spi = s.spi := rfl
@[simp] theorem respond_nvic (s : State) (v : Word) : (s.respond v).nvic = s.nvic := rfl
@[simp] theorem respond_rdata (s : State) (v : Word) : (s.respond v).rdata = v := rfl
@[simp] theorem respond_turns (s : State) (v : Word) : (s.respond v).turns = s.turns := rfl
@[simp] theorem respond_hostStream (s : State) (v : Word) : (s.respond v).hostStream = s.hostStream := rfl
@[simp] theorem respond_agentStream (s : State) (v : Word) : (s.respond v).agentStream = s.agentStream := rfl

@[simp] theorem busRead_params (s : State) (r : Reg) (w : Word) : (s.busRead r w).params = s.params := rfl
@[simp] theorem busRead_usart (s : State) (r : Reg) (w : Word) : (s.busRead r w).usart = s.usart := rfl
@[simp] theorem busRead_i2c (s : State) (r : Reg) (w : Word) : (s.busRead r w).i2c = s.i2c := rfl
@[simp] theorem busRead_spi (s : State) (r : Reg) (w : Word) : (s.busRead r w).spi = s.spi := rfl
@[simp] theorem busRead_nvic (s : State) (r : Reg) (w : Word) : (s.busRead r w).nvic = s.nvic := rfl
@[simp] theorem busRead_turns (s : State) (r : Reg) (w : Word) : (s.busRead r w).turns = s.turns := rfl
@[simp] theorem busRead_hostStream (s : State) (r : Reg) (w : Word) : (s.busRead r w).hostStream = s.hostStream := rfl
@[simp] theorem busRead_agentStream (s : State) (r : Reg) (w : Word) : (s.busRead r w).agentStream = s.agentStream := rfl
@[simp] theorem busRead_rdata (s : State) (r : Reg) (w : Word) :
    (s.busRead r w).rdata = toBus s.params.layout r w := rfl

@[simp] theorem setUsart_params (s : State) (u : Usart) : (s.setUsart u).params = s.params := rfl
@[simp] theorem setUsart_usart (s : State) (u : Usart) : (s.setUsart u).usart = u := rfl
@[simp] theorem setUsart_i2c (s : State) (u : Usart) : (s.setUsart u).i2c = s.i2c := rfl
@[simp] theorem setUsart_spi (s : State) (u : Usart) : (s.setUsart u).spi = s.spi := rfl
@[simp] theorem setUsart_nvic (s : State) (u : Usart) : (s.setUsart u).nvic = s.nvic := rfl
@[simp] theorem setUsart_rdata (s : State) (u : Usart) : (s.setUsart u).rdata = s.rdata := rfl
@[simp] theorem setUsart_turns (s : State) (u : Usart) : (s.setUsart u).turns = s.turns := rfl
@[simp] theorem setUsart_hostStream (s : State) (u : Usart) : (s.setUsart u).hostStream = s.hostStream := rfl
@[simp] theorem setUsart_agentStream (s : State) (u : Usart) : (s.setUsart u).agentStream = s.agentStream := rfl

@[simp] theorem setI2c_params (s : State) (c : I2c) : (s.setI2c c).params = s.params := rfl
@[simp] theorem setI2c_usart (s : State) (c : I2c) : (s.setI2c c).usart = s.usart := rfl
@[simp] theorem setI2c_i2c (s : State) (c : I2c) : (s.setI2c c).i2c = c := rfl
@[simp] theorem setI2c_spi (s : State) (c : I2c) : (s.setI2c c).spi = s.spi := rfl
@[simp] theorem setI2c_nvic (s : State) (c : I2c) : (s.setI2c c).nvic = s.nvic := rfl
@[simp] theorem setI2c_rdata (s : State) (c : I2c) : (s.setI2c c).rdata = s.rdata := rfl
@[simp] theorem setI2c_turns (s : State) (c : I2c) : (s.setI2c c).turns = s.turns := rfl
@[simp] theorem setI2c_hostStream (s : State) (c : I2c) : (s.setI2c c).hostStream = s.hostStream := rfl
@[simp] theorem setI2c_agentStream (s : State) (c : I2c) : (s.setI2c c).agentStream = s.agentStream := rfl

@[simp] theorem setSpi_params (s : State) (p : Spi) : (s.setSpi p).params = s.params := rfl
@[simp] theorem setSpi_usart (s : State) (p : Spi) : (s.setSpi p).usart = s.usart := rfl
@[simp] theorem setSpi_i2c (s : State) (p : Spi) : (s.setSpi p).i2c = s.i2c := rfl
@[simp] theorem setSpi_spi (s : State) (p : Spi) : (s.setSpi p).spi = p := rfl
@[simp] theorem setSpi_nvic (s : State) (p : Spi) : (s.setSpi p).nvic = s.nvic := rfl
@[simp] theorem setSpi_rdata (s : State) (p : Spi) : (s.setSpi p).rdata = s.rdata := rfl
@[simp] theorem setSpi_turns (s : State) (p : Spi) : (s.setSpi p).turns = s.turns := rfl
@[simp] theorem setSpi_hostStream (s : State) (p : Spi) : (s.setSpi p).hostStream = s.hostStream := rfl
@[simp] theorem setSpi_agentStream (s : State) (p : Spi) : (s.setSpi p).agentStream = s.agentStream := rfl

@[simp] theorem setNvic_params (s : State) (n : Nvic) : (s.setNvic n).params = s.params := rfl
@[simp] theorem setNvic_usart (s : State) (n : Nvic) : (s.setNvic n).usart = s.usart := rfl
@[simp] theorem setNvic_i2c (s : State) (n : Nvic) : (s.setNvic n).i2c = s.i2c := rfl
@[simp] theorem setNvic_spi (s : State) (n : Nvic) : (s.setNvic n).spi = s.spi := rfl
@[simp] theorem setNvic_nvic (s : State) (n : Nvic) : (s.setNvic n).nvic = n := rfl
@[simp] theorem setNvic_rdata (s : State) (n : Nvic) : (s.setNvic n).rdata = s.rdata := rfl
@[simp] theorem setNvic_turns (s : State) (n : Nvic) : (s.setNvic n).turns = s.turns := rfl
@[simp] theorem setNvic_hostStream (s : State) (n : Nvic) : (s.setNvic n).hostStream = s.hostStream := rfl
@[simp] theorem setNvic_agentStream (s : State) (n : Nvic) : (s.setNvic n).agentStream = s.agentStream := rfl

@[simp] theorem setUsart_self (s : State) : s.setUsart s.usart = s := rfl
@[simp] theorem setI2c_self (s : State) : s.setI2c s.i2c = s := rfl
@[simp] theorem setSpi_self (s : State) : s.setSpi s.spi = s := rfl
@[simp] theorem setNvic_self (s : State) : s.setNvic s.nvic = s := rfl

end State

@[simp] theorem resetStep_params (s : State) : (resetStep s).params = s.params := rfl
@[simp] theorem resetStep_usart (s : State) : (resetStep s).usart =
    { Usart.reset with draws := s.usart.draws, fault := s.usart.fault, tears := s.usart.tears } := rfl
@[simp] theorem resetStep_i2c (s : State) : (resetStep s).i2c = { I2c.reset with draws := s.i2c.draws } := rfl
@[simp] theorem resetStep_spi (s : State) : (resetStep s).spi =
    { Spi.reset with fault := s.spi.fault, tears := s.spi.tears } := rfl
@[simp] theorem resetStep_nvic (s : State) : (resetStep s).nvic = { Nvic.reset with pend := s.nvic.pend } := rfl
@[simp] theorem resetStep_rdata (s : State) : (resetStep s).rdata = s.rdata := rfl
@[simp] theorem resetStep_turns (s : State) : (resetStep s).turns = s.turns := rfl
@[simp] theorem resetStep_hostStream (s : State) : (resetStep s).hostStream = s.hostStream := rfl
@[simp] theorem resetStep_agentStream (s : State) : (resetStep s).agentStream = s.agentStream := rfl

@[simp] theorem place_bus_params (s : State) (ws : List Word) : (place s (.bus ws)).params = s.params := rfl
@[simp] theorem place_bus_usart (s : State) (ws : List Word) : (place s (.bus ws)).usart = s.usart := rfl
@[simp] theorem place_bus_i2c (s : State) (ws : List Word) : (place s (.bus ws)).i2c = s.i2c := rfl
@[simp] theorem place_bus_spi (s : State) (ws : List Word) : (place s (.bus ws)).spi = s.spi := rfl
@[simp] theorem place_bus_nvic (s : State) (ws : List Word) : (place s (.bus ws)).nvic = s.nvic := rfl
@[simp] theorem place_bus_rdata (s : State) (ws : List Word) : (place s (.bus ws)).rdata = s.rdata := rfl
@[simp] theorem place_bus_turns (s : State) (ws : List Word) : (place s (.bus ws)).turns = .host :: s.turns := rfl
@[simp] theorem place_bus_hostStream (s : State) (ws : List Word) : (place s (.bus ws)).hostStream = ws ++ s.hostStream := rfl
@[simp] theorem place_bus_agentStream (s : State) (ws : List Word) : (place s (.bus ws)).agentStream = s.agentStream := rfl
@[simp] theorem place_event_params (s : State) (bs : List Byte) : (place s (.event bs)).params = s.params := rfl
@[simp] theorem place_event_usart (s : State) (bs : List Byte) : (place s (.event bs)).usart = s.usart := rfl
@[simp] theorem place_event_i2c (s : State) (bs : List Byte) : (place s (.event bs)).i2c = s.i2c := rfl
@[simp] theorem place_event_spi (s : State) (bs : List Byte) : (place s (.event bs)).spi = s.spi := rfl
@[simp] theorem place_event_nvic (s : State) (bs : List Byte) : (place s (.event bs)).nvic = s.nvic := rfl
@[simp] theorem place_event_rdata (s : State) (bs : List Byte) : (place s (.event bs)).rdata = s.rdata := rfl
@[simp] theorem place_event_turns (s : State) (bs : List Byte) : (place s (.event bs)).turns = .agent :: s.turns := rfl
@[simp] theorem place_event_hostStream (s : State) (bs : List Byte) : (place s (.event bs)).hostStream = s.hostStream := rfl
@[simp] theorem place_event_agentStream (s : State) (bs : List Byte) : (place s (.event bs)).agentStream = bs ++ s.agentStream := rfl

/-! ### What HOST goes on to issue changes its stream only (R78) -/

@[simp] theorem State.issued_params (t : State) (more : List Word) : (t.issued more).params = t.params := rfl
@[simp] theorem State.issued_usart (t : State) (more : List Word) : (t.issued more).usart = t.usart := rfl
@[simp] theorem State.issued_i2c (t : State) (more : List Word) : (t.issued more).i2c = t.i2c := rfl
@[simp] theorem State.issued_spi (t : State) (more : List Word) : (t.issued more).spi = t.spi := rfl
@[simp] theorem State.issued_nvic (t : State) (more : List Word) : (t.issued more).nvic = t.nvic := rfl
@[simp] theorem State.issued_rdata (t : State) (more : List Word) : (t.issued more).rdata = t.rdata := rfl
@[simp] theorem State.issued_turns (t : State) (more : List Word) : (t.issued more).turns = t.turns := rfl
@[simp] theorem State.issued_agentStream (t : State) (more : List Word) : (t.issued more).agentStream = t.agentStream := rfl
@[simp] theorem State.issued_hostStream (t : State) (more : List Word) :
    (t.issued more).hostStream = t.hostStream ++ more := rfl

end Sys2Proof.Machine
end

