-- ==== Sys2Proof/Laws/Ops.lean ====
section
/-! SUPPORT. What each shared operation can do, once: the checks, the step of an agent that may not be enabled, an
operation confined to a sub-block. A proof about a meaning that answers a next state cites these and
unfolds nothing. -/

namespace Sys2Proof.Machine

variable {σ : Type}

@[simp] theorem next_inj (a b : σ) : (Host.Outcome.next a : OutcomeOf σ) = .next b ↔ a = b :=
  ⟨fun h => by injection h, fun h => h ▸ rfl⟩

/-! ### Checks -/

@[simp] theorem refuseIf_next (bad : Bool) (r : Refusal) (o : OutcomeOf σ) (t : σ) :
    refuseIf bad r o = .next t ↔ bad = false ∧ o = .next t := by
  cases bad <;> simp [refuseIf]

theorem refuseIf_bad {bad : Bool} (h : bad = true) (r : Refusal) (o : OutcomeOf σ) :
    refuseIf bad r o = .refused r := by simp [refuseIf, h]

theorem refuseIf_good {bad : Bool} (h : bad = false) (r : Refusal) (o : OutcomeOf σ) :
    refuseIf bad r o = o := by simp [refuseIf, h]

/-! ### A bus write under a layout -/

theorem busWrite_next (s : State) (r : Reg) (v : Word) (k : Word → Out) (t : State) :
    s.busWrite r v k = .next t ↔
      SetsOnly v (s.params.layout.of r).pos ∧ k (fromBus s.params.layout r v) = .next t := by
  rw [State.busWrite, refuseIf_next, setsReserved_eq_false_iff]

theorem busWrite_reserved {s : State} {r : Reg} {v : Word} (h : ¬SetsOnly v (s.params.layout.of r).pos)
    (k : Word → Out) : s.busWrite r v k = .refused .reservedBit :=
  refuseIf_bad ((setsReserved_eq_true_iff _ _).2 h) _ _

theorem busWrite_defined {s : State} {r : Reg} {v : Word} (h : SetsOnly v (s.params.layout.of r).pos)
    (k : Word → Out) : s.busWrite r v k = k (fromBus s.params.layout r v) :=
  refuseIf_good ((setsReserved_eq_false_iff _ _).2 h) _ _

/-! ### Steps that may not be enabled -/

theorem whenEnabled_yes {e : Bool} (h : e = true) (s : σ) (o : OutcomeOf σ) : whenEnabled e s o = o := by
  simp [whenEnabled, h]

theorem whenEnabled_no {e : Bool} (h : e = false) (s : σ) (o : OutcomeOf σ) : whenEnabled e s o = .next s := by
  simp [whenEnabled, h]

theorem whenEnabled_next (e : Bool) (s : σ) (o : OutcomeOf σ) (t : σ) :
    whenEnabled e s o = .next t ↔ (e = false ∧ s = t) ∨ (e = true ∧ o = .next t) := by
  cases e <;> simp [whenEnabled]

/-! ### Operations confined to a sub-block -/

@[simp] theorem onUsart_next (s : State) (o : OutcomeOf Usart) (t : State) :
    s.onUsart o = .next t ↔ ∃ u, o = .next u ∧ s.setUsart u = t := by
  cases o <;> simp [State.onUsart]

@[simp] theorem onI2c_next (s : State) (o : OutcomeOf I2c) (t : State) :
    s.onI2c o = .next t ↔ ∃ c, o = .next c ∧ s.setI2c c = t := by
  cases o <;> simp [State.onI2c]

@[simp] theorem onSpi_next (s : State) (o : OutcomeOf Spi) (t : State) :
    s.onSpi o = .next t ↔ ∃ p, o = .next p ∧ s.setSpi p = t := by
  cases o <;> simp [State.onSpi]

@[simp] theorem onNvic_next (s : State) (o : OutcomeOf Nvic) (t : State) :
    s.onNvic o = .next t ↔ ∃ n, o = .next n ∧ s.setNvic n = t := by
  cases o <;> simp [State.onNvic]

/-! ### Fetching -/

/-- Everything a step can do. -/
theorem step_next {s t : State} (h : step s = .next t) :
    (s.turns = [] ∧ t = s) ∨
    (∃ turns, s.turns = .reset :: turns ∧ t = resetStep { s with turns := turns }) ∨
    (∃ turns, s.turns = .host :: turns ∧
      ((s.hostStream = [] ∧ t = { s with turns := turns }) ∨
       ∃ i rest, decodeBus s.params s.hostStream = .ok (i, rest) ∧
        exec i { s with turns := turns, hostStream := rest } = .next t)) ∨
    (∃ turns, s.turns = .agent :: turns ∧
      ((s.agentStream = [] ∧ t = { s with turns := turns }) ∨
       ∃ i rest, decodeEvent s.params s.agentStream = .ok (i, rest) ∧
        exec i { s with turns := turns, agentStream := rest } = .next t)) := by
  unfold step fetch at h
  rcases hT : s.turns with _ | ⟨_ | _ | _, turns⟩ <;> simp only [hT] at h
  · exact .inl ⟨rfl, by simpa using h.symm⟩
  · refine .inr (.inr (.inl ⟨turns, rfl, ?_⟩))
    unfold fetchHost at h
    rcases hS : s.hostStream with _ | ⟨cmd, more⟩ <;> simp only [hS] at h
    · exact .inl ⟨rfl, by simpa using h.symm⟩
    · rcases hD : decodeBus s.params (cmd :: more) with r | ⟨i, rest⟩ <;> simp only [hD] at h
      · cases h
      · exact .inr ⟨i, rest, rfl, h⟩
  · refine .inr (.inr (.inr ⟨turns, rfl, ?_⟩))
    unfold fetchAgent at h
    rcases hS : s.agentStream with _ | ⟨cmd, more⟩ <;> simp only [hS] at h
    · exact .inl ⟨rfl, by simpa using h.symm⟩
    · rcases hD : decodeEvent s.params (cmd :: more) with r | ⟨i, rest⟩ <;> simp only [hD] at h
      · cases h
      · exact .inr ⟨i, rest, rfl, h⟩
  · exact .inr (.inl ⟨turns, rfl, by simpa using h.symm⟩)

/-! ### Running a list of operations -/

@[simp] theorem runOps_nil (s : State) : runOps [] s = .next s := rfl

theorem runOps_cons {i : Instr} {s t : State} (h : exec i s = .next t) (is : List Instr) :
    runOps (i :: is) s = runOps is t := by simp [runOps, h]

theorem runOps_append {s t : State} (xs ys : List Instr) (h : runOps xs s = .next t) :
    runOps (xs ++ ys) s = runOps ys t := by
  induction xs generalizing s with
  | nil => simp at h; subst h; rfl
  | cons i is ih =>
    rcases hE : exec i s with u | r | r <;> simp only [runOps, List.cons_append, hE] at h ⊢
    · exact ih h
    · cases h
    · cases h

end Sys2Proof.Machine
end

