-- ==== Sys2Proof/Laws/I2c.lean ====
section
/-! SUPPORT. What each operation of the I2C can do: when a write is accepted and what it leaves
(42_i2c.md section 3), and what the step that settles SCL may change (log entry 7). -/

namespace Sys2Proof.Machine.I2c

/-! ### SCL between steps -/

/-- Settling the lines changes SCL, and counts a free value when it takes one. -/
theorem settle_eq (i : I2c) : i.settle = { i with scl := i.settle.scl, draws := i.settle.draws } := by
  unfold settle; split <;> rfl

@[simp] theorem settle_pe (i : I2c) : i.settle.pe = i.pe := by rw [settle_eq]
@[simp] theorem settle_cr2 (i : I2c) : i.settle.cr2 = i.cr2 := by rw [settle_eq]
@[simp] theorem settle_timingr (i : I2c) : i.settle.timingr = i.timingr := by rw [settle_eq]
@[simp] theorem settle_isr (i : I2c) : i.settle.isr = i.isr := by rw [settle_eq]
@[simp] theorem settle_rxdr (i : I2c) : i.settle.rxdr = i.rxdr := by rw [settle_eq]
@[simp] theorem settle_txdr (i : I2c) : i.settle.txdr = i.txdr := by rw [settle_eq]
@[simp] theorem settle_phase (i : I2c) : i.settle.phase = i.phase := by rw [settle_eq]
@[simp] theorem settle_remaining (i : I2c) : i.settle.remaining = i.remaining := by rw [settle_eq]
@[simp] theorem settle_shift (i : I2c) : i.settle.shift = i.shift := by rw [settle_eq]
@[simp] theorem settle_sda (i : I2c) : i.settle.sda = i.sda := by rw [settle_eq]
@[simp] theorem settle_wire (i : I2c) : i.settle.wire = i.wire := by rw [settle_eq]

/-- The SCL column of R204 where it says a level. -/
theorem settle_scl (i : I2c) (h : i.clocking = false) :
    i.settle.scl = decide (i.phase = .idle ∨ i.phase = .lost) := by
  simp [settle, h]

/-! ### Writes -/

theorem writeCr1_next (i i' : I2c) (v : Word) :
    i.writeCr1 v = .next i' ↔
      i' = if v.getLsbD 0 then { i with pe := true } else i.softReset := by
  simp only [writeCr1, next_inj, eq_comm (a := i')]

theorem writeCr2_next (i i' : I2c) (v : Word) :
    i.writeCr2 v = .next i' ↔
      (I2cCr2.start i.cr2 = true → I2cCr2.cfg v = I2cCr2.cfg i.cr2) ∧
      ¬(i.pe = true ∧ i.newStart v = true ∧ i.newStop v = true) ∧
      i' = { i with
        cr2 := I2cCr2.make v (i.newStart v) (i.newStop v)
        isr := { i.isr with tc := i.isr.tc && !(i.pe && (I2cCr2.start v || I2cCr2.stop v)) } } := by
  simp only [writeCr2, refuseIf_next, next_inj, eq_comm (a := i')]
  cases I2cCr2.start i.cr2 <;> cases i.pe <;> cases i.newStart v <;> simp

theorem writeTimingr_next (i i' : I2c) (v : Word) :
    i.writeTimingr v = .next i' ↔
      (i.pe = true → v = i.timingr) ∧
      i' = { i with timingr := v } := by
  simp only [writeTimingr, refuseIf_next, next_inj, eq_comm (a := i')]
  cases i.pe <;> simp

theorem writeIcr_next (i i' : I2c) (v : Word) :
    i.writeIcr v = .next i' ↔ i' = { i with isr := i.isr.clear v } := by
  simp only [writeIcr, next_inj, eq_comm (a := i')]

theorem writeTxdr_next (i i' : I2c) (v : Word) :
    i.writeTxdr v = .next i' ↔
      i.pe = true ∧
      i' = (if i.phase = .txWait ∧ i.isr.txe = true then
          settle { i with txdr := v.setWidth 8, isr := { i.isr with txe := false, txis := false } }
        else { i with txdr := v.setWidth 8, isr := { i.isr with txe := false, txis := false } }) := by
  simp only [writeTxdr, refuseIf_next, next_inj, eq_comm (a := i')]
  cases i.pe <;> simp

/-! ### The sequencer -/

theorem sStart_next (i i' : I2c) :
    i.sStart = .next i' ↔
      I2cCr2.reload i.cr2 = false ∧ I2cCr2.autoend i.cr2 = false ∧
      i' = settle { i with
        isr := { i.isr with busy := true, tc := false }
        remaining := I2cCr2.nbytes i.cr2, phase := .addr, sda := false
        wire := [if i.phase = .tc then .repeatedStart else .start] } := by
  simp only [sStart, refuseIf_next, next_inj, eq_comm (a := i')]
  cases I2cCr2.reload i.cr2 <;> simp

end Sys2Proof.Machine.I2c
end

