-- ==== Sys2Proof/Laws/Nvic.lean ====
section
/-! SUPPORT. What each operation of the NVIC decoder does to each line's enable bit, priority byte and
pending input (44_nvic.md R301, R302, R304, R308). -/

namespace Sys2Proof.Machine.Nvic

/-! ### Read after write, line by line -/

theorem enabled_setEnables (n : Nvic) (r : Nat) (v : Word) (line : Nat) (hr : r < 16) :
    (n.setEnables r v).enabled line =
      (n.enabled line || (decide (line / 32 = r) && v.getLsbD (line % 32))) := by
  by_cases h : line / 32 = r
  · subst h
    simp [enabled, setEnables, hr]
  · simp [enabled, setEnables, h, Ne.symm h]

@[simp] theorem priority_setEnables (n : Nvic) (r : Nat) (v : Word) (line : Nat) :
    (n.setEnables r v).priority line = n.priority line := rfl

@[simp] theorem pending_setEnables (n : Nvic) (r : Nat) (v : Word) (line : Nat) :
    (n.setEnables r v).pending line = n.pending line := rfl

theorem priority_setPriority (n : Nvic) (bits l : Nat) (v : Byte) (line : Nat) (hl : l < 512) :
    (n.setPriority bits l v).priority line =
      if line = l then keepPriority bits v else n.priority line := by
  by_cases h : line = l
  · subst h; simp [priority, setPriority, hl]
  · simp [priority, setPriority, h, Ne.symm h]

@[simp] theorem enabled_setPriority (n : Nvic) (bits l : Nat) (v : Byte) (line : Nat) :
    (n.setPriority bits l v).enabled line = n.enabled line := rfl

@[simp] theorem pending_setPriority (n : Nvic) (bits l : Nat) (v : Byte) (line : Nat) :
    (n.setPriority bits l v).pending line = n.pending line := rfl

theorem pending_setPending (n : Nvic) (l : Nat) (level : Bool) (line : Nat) (hl : l < 512) :
    (n.setPending l level).pending line = if line = l then level else n.pending line := by
  by_cases h : line = l
  · subst h; simp [pending, setPending, hl]
  · simp [pending, setPending, h, Ne.symm h]

@[simp] theorem enabled_setPending (n : Nvic) (l : Nat) (level : Bool) (line : Nat) :
    (n.setPending l level).enabled line = n.enabled line := rfl

@[simp] theorem priority_setPending (n : Nvic) (l : Nat) (level : Bool) (line : Nat) :
    (n.setPending l level).priority line = n.priority line := rfl

/-! ### What a priority cell keeps -/

theorem getLsbD_keepPriority (bits : Nat) (v : Byte) (j : Nat) :
    (keepPriority bits v).getLsbD j = (decide (8 - bits ≤ j) && v.getLsbD j) := by
  simp only [keepPriority, BitVec.getLsbD_shiftLeft, BitVec.getLsbD_ushiftRight]
  by_cases h8 : j < 8
  · by_cases h : j < 8 - bits
    · simp [h, Nat.not_le.2 h]
    · have h5 : 8 - bits ≤ j := by omega
      have e : 8 - bits + (j - (8 - bits)) = j := by omega
      simp [h8, h, h5, e]
  · simp [h8, BitVec.getLsbD_of_ge v j (by omega)]

end Sys2Proof.Machine.Nvic
end

