-- ==== Sys2Proof/Laws/PerInstr.lean ====
section
/-! SUPPORT. Statements made of every instruction, one lemma per constructor. `EncodedLength`: the length of an
operation is told by bit 31 of its command word, and an event's operand by its label (30_encoding.md R100,
R107, R108). -/

namespace Sys2Proof.Laws.EncodedLength

/-- The words of a bus operation are its command word and, when bit 31 is set, one data word; the bytes of
an event are a label of R107 and as many operand bytes as its row has. Whatever the layout. -/
def Statement (i : Instr) : Prop :=
  ∀ l : Layout, match encode l i with
  | .bus words => ∃ cmd data, words = cmd :: data ∧ data.length = if cmdWe cmd then 1 else 0
  | .event bytes =>
    ∃ label operand row, bytes = label :: operand ∧ eventRow? label = some row ∧
      operand.length = operandBytes row.operandBits

theorem readPacket_length (sz : Width) (blk : Blk) (off : BitVec 12) :
    cmdWe (command false sz blk off) = false := by
  unfold cmdWe command
  simp only [BitVec.getLsbD_append]
  rfl

theorem writePacket_length (sz : Width) (blk : Blk) (off : BitVec 12) :
    cmdWe (command true sz blk off) = true := by
  unfold cmdWe command
  simp only [BitVec.getLsbD_append]
  rfl

theorem of_read {i : Instr} {sz : Width} {blk : Blk} {off : Layout → BitVec 12}
    (h : ∀ l, encode l i = readPacket sz blk (off l)) : Statement i := by
  intro l; rw [h]
  exact ⟨_, _, rfl, by rw [readPacket_length]; rfl⟩

theorem of_write {i : Instr} {sz : Width} {blk : Blk} {off : Layout → BitVec 12} {wdata : Word}
    (h : ∀ l, encode l i = writePacket sz blk (off l) wdata) : Statement i := by
  intro l; rw [h]
  exact ⟨_, _, rfl, by rw [writePacket_length]; rfl⟩

theorem of_event {i : Instr} {label : Byte} {operand : List Byte}
    (h : ∀ l, encode l i = .event (label :: operand))
    {row : EventRow} (hr : eventRow? label = some row) (hl : operand.length = operandBytes row.operandBits) :
    Statement i := by
  intro l; rw [h]
  exact ⟨_, _, _, rfl, hr, hl⟩

theorem rdUsartCr1 : Statement .rdUsartCr1 := of_read fun _ => rfl
theorem wrUsartCr1 (v : Word) : Statement (.wrUsartCr1 v) := of_write fun _ => rfl
theorem rdUsartCr2 : Statement .rdUsartCr2 := of_read fun _ => rfl
theorem wrUsartCr2 (v : Word) : Statement (.wrUsartCr2 v) := of_write fun _ => rfl
theorem rdUsartBrr : Statement .rdUsartBrr := of_read fun _ => rfl
theorem wrUsartBrr (v : Word) : Statement (.wrUsartBrr v) := of_write fun _ => rfl
theorem rdUsartRtor : Statement .rdUsartRtor := of_read fun _ => rfl
theorem wrUsartRtor (v : Word) : Statement (.wrUsartRtor v) := of_write fun _ => rfl
theorem rdUsartIsr : Statement .rdUsartIsr := of_read fun _ => rfl
theorem rdUsartIcr : Statement .rdUsartIcr := of_read fun _ => rfl
theorem wrUsartIcr (v : Word) : Statement (.wrUsartIcr v) := of_write fun _ => rfl
theorem rdUsartRdr : Statement .rdUsartRdr := of_read fun _ => rfl
theorem rdUsartTdr : Statement .rdUsartTdr := of_read fun _ => rfl
theorem wrUsartTdr (v : Word) : Statement (.wrUsartTdr v) := of_write fun _ => rfl
theorem rdI2cCr1 : Statement .rdI2cCr1 := of_read fun _ => rfl
theorem wrI2cCr1 (v : Word) : Statement (.wrI2cCr1 v) := of_write fun _ => rfl
theorem rdI2cCr2 : Statement .rdI2cCr2 := of_read fun _ => rfl
theorem wrI2cCr2 (v : Word) : Statement (.wrI2cCr2 v) := of_write fun _ => rfl
theorem rdI2cTimingr : Statement .rdI2cTimingr := of_read fun _ => rfl
theorem wrI2cTimingr (v : Word) : Statement (.wrI2cTimingr v) := of_write fun _ => rfl
theorem rdI2cIsr : Statement .rdI2cIsr := of_read fun _ => rfl
theorem rdI2cIcr : Statement .rdI2cIcr := of_read fun _ => rfl
theorem wrI2cIcr (v : Word) : Statement (.wrI2cIcr v) := of_write fun _ => rfl
theorem rdI2cRxdr : Statement .rdI2cRxdr := of_read fun _ => rfl
theorem rdI2cTxdr : Statement .rdI2cTxdr := of_read fun _ => rfl
theorem wrI2cTxdr (v : Word) : Statement (.wrI2cTxdr v) := of_write fun _ => rfl
theorem rdSpiCr1 : Statement .rdSpiCr1 := of_read fun _ => rfl
theorem wrSpiCr1 (v : Word) : Statement (.wrSpiCr1 v) := of_write fun _ => rfl
theorem rdSpiCr2 : Statement .rdSpiCr2 := of_read fun _ => rfl
theorem wrSpiCr2 (v : Word) : Statement (.wrSpiCr2 v) := of_write fun _ => rfl
theorem rdSpiSr : Statement .rdSpiSr := of_read fun _ => rfl
theorem rd8SpiDr : Statement .rd8SpiDr := of_read fun _ => rfl
theorem rd16SpiDr : Statement .rd16SpiDr := of_read fun _ => rfl
theorem wr8SpiDr (v : Byte) : Statement (.wr8SpiDr v) := of_write fun _ => rfl
theorem wr16SpiDr (v : BitVec 16) : Statement (.wr16SpiDr v) := of_write fun _ => rfl
theorem rdNvicIser (r : BitVec 4) : Statement (.rdNvicIser r) := of_read fun _ => rfl
theorem wrNvicIser (r : BitVec 4) (v : Word) : Statement (.wrNvicIser r v) := of_write fun _ => rfl
theorem rdNvicIpr (n : BitVec 9) : Statement (.rdNvicIpr n) := of_read fun _ => rfl
theorem wrNvicIpr (n : BitVec 9) (v : Byte) : Statement (.wrNvicIpr n v) := of_write fun _ => rfl
theorem evUsartClk : Statement .evUsartClk := of_event (fun _ => rfl) rfl rfl
theorem evUsartTick (rxPin : Bool) : Statement (.evUsartTick rxPin) := of_event (fun _ => rfl) rfl rfl
theorem evI2cStart : Statement .evI2cStart := of_event (fun _ => rfl) rfl rfl
theorem evI2cAddr (ack lost : Bool) : Statement (.evI2cAddr ack lost) := of_event (fun _ => rfl) rfl rfl
theorem evI2cTxByte (ack lost : Bool) : Statement (.evI2cTxByte ack lost) := of_event (fun _ => rfl) rfl rfl
theorem evI2cRxByte (data : Byte) : Statement (.evI2cRxByte data) := of_event (fun _ => rfl) rfl rfl
theorem evI2cStop : Statement .evI2cStop := of_event (fun _ => rfl) rfl rfl
theorem evI2cBusFree : Statement .evI2cBusFree := of_event (fun _ => rfl) rfl rfl
theorem evSpiLoad : Statement .evSpiLoad := of_event (fun _ => rfl) rfl rfl
theorem evSpiBit (miso : Bool) : Statement (.evSpiBit miso) := of_event (fun _ => rfl) rfl rfl
theorem evSpiModf (nssIn : Bool) : Statement (.evSpiModf nssIn) := of_event (fun _ => rfl) rfl rfl
theorem evNvicPend (n : BitVec 9) (level : Bool) : Statement (.evNvicPend n level) := of_event (fun _ => rfl) rfl (by simp [operandBytes])

end Sys2Proof.Laws.EncodedLength
end

