-- ==== Sys2Proof/Laws/Spi.lean ====
section
/-! SUPPORT. What each operation of the SPI can do: when a write is accepted and what it leaves
(43_spi.md sections 1 and 4), and the fields a frame's steps leave alone (section 3). -/

namespace Sys2Proof.Machine.Spi

/-! ### Writes -/

theorem writeCr1_next (p p' : Spi) (v : Word) :
    p.writeCr1 v = .next p' ↔
      SpiCr1.crcnext v = false ∧
      (SpiCr1.spe v = true → SpiCr1.mstr v = true) ∧
      (SpiCr1.spe p.cr1 = true → SpiCr1.spe v = true → SpiCr1.config v = SpiCr1.config p.cr1) ∧
      p' = (if SpiCr1.spe p.cr1 && !SpiCr1.spe v && p.underWay then p.recordDisable else p).storeCr1 v := by
  simp only [writeCr1, refuseIf_next, next_inj, eq_comm (a := p')]
  cases SpiCr1.spe p.cr1 <;> cases SpiCr1.spe v <;> simp

theorem writeCr2_next (p p' : Spi) (v : Word) :
    p.writeCr2 v = .next p' ↔
      (SpiCr1.spe p.cr1 = true →
        SpiCr2.forcedDs v = SpiCr2.ds p.cr2 ∧ SpiCr2.frxth v = SpiCr2.frxth p.cr2) ∧
      (p.holdsData = true → SpiCr2.forcedDs v = SpiCr2.ds p.cr2) ∧
      p' = { p with cr2 := SpiCr2.stored v } := by
  simp only [writeCr2, refuseIf_next, next_inj, eq_comm (a := p')]
  cases SpiCr1.spe p.cr1 <;> cases p.holdsData <;> simp

theorem push8_next (p p' : Spi) (v : Byte) :
    p.push8 v = .next p' ↔
      p.frameBytes ≠ 2 ∧ p.txf.length + 1 ≤ 4 ∧ p' = { p with txf := p.txf ++ [v] } := by
  simp [push8, wideFrame, eq_comm (a := p')]

theorem push16_next (p p' : Spi) (v : BitVec 16) :
    p.push16 v = .next p' ↔
      p.txf.length + 2 ≤ 4 ∧ p' = { p with txf := p.txf ++ [v.extractLsb' 0 8, v.extractLsb' 8 8] } := by
  simp [push16, eq_comm (a := p')]

/-! ### A torn frame -/

/-- Recording the fault changes the frame on the wire and the bytes left, and what the model records of it. -/
theorem recordDisable_frame (p : Spi) :
    p.recordDisable = { p with
      sh := p.recordDisable.sh, mosi := p.recordDisable.mosi, txf := p.recordDisable.txf
      fault := some .disabledWhileBusy, torn := true, tears := p.tears + 1 } := rfl

/-! ### The frame width -/

theorem frameBits_le (p : Spi) : p.frameBits ≤ 16 := by
  unfold frameBits; have := (SpiCr2.ds p.cr2).isLt; omega

theorem frameBytes_cases (p : Spi) : p.frameBytes = 1 ∨ p.frameBytes = 2 := by
  unfold frameBytes; split <;> simp

/-- Free bytes left are whole frames that fit the FIFO (R251). -/
theorem recordDisable_txf (p : Spi) :
    p.recordDisable.txf.length ≤ 4 ∧ p.recordDisable.txf.length % p.frameBytes = 0 := by
  simp only [recordDisable, List.length_take]
  generalize (Config.tornFrame p.tears).left.length = n
  rcases frameBytes_cases p with h | h <;> rw [h] <;> omega

/-- CR2 as a write stores it reads back with its own fields (R272). -/
theorem stored_fields (v : Word) :
    SpiCr2.ds (SpiCr2.stored v) = SpiCr2.forcedDs v ∧ SpiCr2.frxth (SpiCr2.stored v) = SpiCr2.frxth v := by
  unfold SpiCr2.ds SpiCr2.stored
  generalize SpiCr2.forcedDs v = d
  constructor
  · cases SpiCr2.frxth v <;> revert d <;> decide
  · unfold SpiCr2.frxth
    generalize v.getLsbD 12 = b
    revert b d; decide

/-! ### Bits of a frame -/

theorem getLsbD_lowBits (n : Nat) (hn : n ≤ 16) (f : BitVec 16) (j : Nat) :
    (lowBits n f).getLsbD j = (f.getLsbD j && decide (j < n)) := by
  rw [lowBits, BitVec.getLsbD_and, BitVec.getLsbD_ofNat, Nat.testBit_two_pow_sub_one]
  by_cases h : j < 16
  · simp [h]
  · have h1 : ¬j < n := by omega
    simp [h, h1]

theorem getLsbD_setFrameBit (f : BitVec 16) (i : Nat) (b : Bool) (hi : i < 16) (j : Nat) :
    (setFrameBit f i b).getLsbD j = if j = i then b else f.getLsbD j := by
  unfold setFrameBit
  by_cases hj : j < 16
  · have hsh : ((1#16 <<< i)).getLsbD j = decide (j = i) := by
      rw [BitVec.getLsbD_shiftLeft, BitVec.getLsbD_one]
      rcases Nat.lt_trichotomy j i with h | h | h
      · have : j ≠ i := by omega
        simp [h, this]
      · subst h; simp [hj]
      · have h1 : ¬j < i := by omega
        have h2 : j ≠ i := by omega
        have h3 : j - i ≠ 0 := by omega
        simp [h1, h2, h3]
    cases b
    · simp only [Bool.false_eq_true, if_false, BitVec.getLsbD_and, BitVec.getLsbD_not, hsh]
      by_cases h : j = i <;> simp [h, hj, hi]
    · simp only [if_true, BitVec.getLsbD_or, hsh]
      by_cases h : j = i <;> simp [h]
  · have h1 : j ≠ i := by omega
    rw [if_neg h1, BitVec.getLsbD_of_ge _ _ (by omega), BitVec.getLsbD_of_ge _ _ (by omega)]

end Sys2Proof.Machine.Spi
end

