-- ==== Sys2Proof/Laws/Usart.lean ====
section
/-! SUPPORT. What each operation of the USART can do: when a write is accepted and what it leaves
(41_usart.md section 6), and what a substep of a tick may change (sections 4 and 5). -/

namespace Sys2Proof.Machine.Usart

/-! ### Writes -/

theorem writeCr1_next (u u' : Usart) (v : Word) :
    u.writeCr1 v = .next u' ↔
      UsartCr1.reservedLength v = false ∧ cr1Guarded u.cr1 v = false ∧
      (UsartCr1.ue u.cr1 = false → UsartCr1.ue v = true → badDivisor u.brr (UsartCr1.over8 v) = false) ∧
      u' = (if stopsInFrame u v then u.recordStop else u).storeCr1 v := by
  simp only [writeCr1, refuseIf_next, next_inj, eq_comm (a := u')]
  cases UsartCr1.ue u.cr1 <;> cases UsartCr1.ue v <;> simp

theorem writeCr2_next (u u' : Usart) (v : Word) :
    u.writeCr2 v = .next u' ↔
      UsartCr2.reservedStop v = false ∧
      (UsartCr1.ue u.cr1 = true →
        UsartCr2.stop v = UsartCr2.stop u.cr2 ∧ UsartCr2.rtoen v = UsartCr2.rtoen u.cr2) ∧
      u' = { u with cr2 := v } := by
  simp only [writeCr2, refuseIf_next, next_inj, eq_comm (a := u')]
  cases UsartCr1.ue u.cr1 <;> simp

theorem writeBrr_next (u u' : Usart) (v : Word) :
    u.writeBrr v = .next u' ↔
      (UsartCr1.ue u.cr1 = true → v.setWidth 16 = u.brr) ∧
      u' = { u with brr := v.setWidth 16 } := by
  simp only [writeBrr, refuseIf_next, next_inj, eq_comm (a := u')]
  cases UsartCr1.ue u.cr1 <;> simp

theorem writeRtor_next (u u' : Usart) (v : Word) :
    u.writeRtor v = .next u' ↔
      u' = { u with rto := v.setWidth 24 } := by
  simp only [writeRtor, next_inj, eq_comm (a := u')]

theorem writeIcr_next (u u' : Usart) (v : Word) :
    u.writeIcr v = .next u' ↔
      u' = { u with isr := u.isr.clear v } := by
  simp only [writeIcr, next_inj, eq_comm (a := u')]

theorem writeTdr_next (u u' : Usart) (v : Word) :
    u.writeTdr v = .next u' ↔
      UsartCr1.ue u.cr1 = true ∧
      u' = { u with tdr := v.setWidth 9, isr := { u.isr with txe := false, tc := false } } := by
  simp only [writeTdr, refuseIf_next, next_inj, eq_comm (a := u')]
  cases UsartCr1.ue u.cr1 <;> simp

/-! ### The transmit substep changes the transmitter only -/

/-- What the transmit substep leaves alone. -/
def SameOutsideTx (u u' : Usart) : Prop :=
  u' = { u with tx := u'.tx, txPin := u'.txPin, isr := { u.isr with txe := u'.isr.txe, tc := u'.isr.tc } }

theorem txStep_frame (u : Usart) : SameOutsideTx u u.txStep := by
  unfold txStep txBoundary txIdle txStart txData txStop txLoad SameOutsideTx
  split
  · rfl
  · cases u.tx.state <;> simp only <;> (try split) <;> (try split) <;> rfl

/-- Tearing changes the transmitter, and counts the free value. -/
theorem tear_frame (u : Usart) :
    u.tear = { u with
      tx := u.tear.tx, txPin := u.tear.txPin, tears := u.tears + 1
      isr := { u.isr with txe := u.tear.isr.txe, tc := u.tear.isr.tc } } := rfl

theorem nData_pos (u : Usart) : 0 < u.nData := by
  unfold nData UsartCr1.nData; split <;> (try split) <;> decide

theorem nOs_pos (u : Usart) : 0 < u.nOs := by
  unfold nOs UsartCr1.nOs; split <;> decide

theorem nStop_pos (u : Usart) : 0 < u.nStop := by
  unfold nStop UsartCr2.nStop; split <;> decide

/-- A free transmitter stays inside its widths (R29). -/
theorem tear_widths (u : Usart) :
    u.tear.tx.bit < u.nData ∧ u.tear.tx.stop < u.nStop ∧ u.tear.tx.osc < u.nOs :=
  ⟨Nat.mod_lt _ u.nData_pos, Nat.mod_lt _ u.nStop_pos, Nat.mod_lt _ u.nOs_pos⟩

theorem txOff_frame (u : Usart) : SameOutsideTx u u.txOff := rfl

/-! ### The receive substep changes the receiver only -/

/-- What the receive substep leaves alone. -/
def SameOutsideRx (u u' : Usart) : Prop :=
  u' = { u with
    rx := u'.rx, rdr := u'.rdr
    isr := { u'.isr with txe := u.isr.txe, tc := u.isr.tc } }

theorem SameOutsideRx.trans {a b c : Usart} (h1 : SameOutsideRx a b) (h2 : SameOutsideRx b c) :
    SameOutsideRx a c := by
  unfold SameOutsideRx at *
  rw [h2, h1]

theorem rxFrame_frame (u : Usart) (p : Bool) : SameOutsideRx u (u.rxFrame p) := by
  unfold rxFrame rxHunt rxStart rxData rxStop deliver rearm SameOutsideRx
  cases u.rx.state <;> simp only <;> (try split) <;> (try split) <;> (try split) <;> rfl

theorem idleDetect_frame (pre u : Usart) (p : Bool) : SameOutsideRx u (idleDetect pre p u) := by
  unfold idleDetect SameOutsideRx
  repeat' split
  all_goals rfl

theorem timeoutDetect_frame (pre u : Usart) : SameOutsideRx u (timeoutDetect pre u) := by
  unfold timeoutDetect SameOutsideRx
  repeat' split
  all_goals rfl

theorem rxStep_frame (u : Usart) (p : Bool) : SameOutsideRx u (u.rxStep p) := by
  have h := ((rxFrame_frame u p).trans (idleDetect_frame u _ p)).trans (timeoutDetect_frame u _)
  unfold rxStep SameOutsideRx at *
  simp only
  rw [h]

/-! ### A tick keeps the registers software writes -/

theorem tick_config (u : Usart) (p : Bool) :
    (u.tick p).cr1 = u.cr1 ∧ (u.tick p).cr2 = u.cr2 ∧ (u.tick p).brr = u.brr ∧ (u.tick p).rto = u.rto ∧
      (u.tick p).tdr = u.tdr ∧ (u.tick p).brgAcc = u.brgAcc ∧ (u.tick p).draws = u.draws ∧
      (u.tick p).fault = u.fault ∧ (u.tick p).torn = u.torn := by
  have hr : SameOutsideRx u (if UsartCr1.re u.cr1 then u.rxStep p else u) := by
    split
    · exact rxStep_frame u p
    · rfl
  unfold tick
  generalize (if UsartCr1.re u.cr1 then u.rxStep p else u) = r at hr
  unfold SameOutsideRx at hr
  have ht := txStep_frame r
  unfold SameOutsideTx at ht
  simp only
  split
  · rw [tear_frame, hr]; simp
  · split
    · rw [ht, hr]; simp
    · rw [txOff_frame r, hr]; simp

end Sys2Proof.Machine.Usart
end

