-- ==== Sys2Proof/Tests/Slice0.lean ====
section
/-! SUPPORT. The model's own tests: the check of WellFormed on ill-formed operations, decodings of words
written out from 30_encoding.md, single steps with the results of 95_test_vectors.md (each theorem names its
vector), and for each statement a witness that its hypotheses can be met. -/

namespace Sys2Proof.Tests

open Sys2Proof.Machine

/-! ### Looking at an outcome -/

def after {α : Type} (o : Out) (f : State → α) : Option α :=
  match o with
  | .next t => some (f t)
  | .fault _ | .refused _ => none

def refusalIn (o : Out) : Option Refusal :=
  match o with
  | .refused r => some r
  | .next _ | .fault _ => none

/-! ### Small states -/

/-- Parameters other than the defaults (R6): 32 lines, USART.CR1 at another offset with UE and RE exchanged. -/
def otherParams : Params :=
  { nLines := 32, nIser := 1, prioBits := 8, pShift := 0, subMask := 0#8
    layout := { Layout.default with usartCr1 := ⟨0x030#12, [2, 0, 3, 12, 15, 28]⟩ } }

def under (s : State) (p : Params) : State := { s with params := p }

def withUsart (u : Usart) : State := { State.reset with usart := u }
def withI2c (i : I2c) : State := { State.reset with i2c := i }
def withSpi (p : Spi) : State := { State.reset with spi := p }
def withNvic (v : Nvic) : State := { State.reset with nvic := v }

/-- The flags of an ISR value (10_state.md R26). -/
def usartFlags (w : Word) : UsartFlags :=
  { fe := w.getLsbD 1, ore := w.getLsbD 3, idle := w.getLsbD 4, rxne := w.getLsbD 5, tc := w.getLsbD 6
    txe := w.getLsbD 7, rtof := w.getLsbD 11 }

/-- The flags of an ISR value (10_state.md R33). -/
def i2cFlags (w : Word) : I2cFlags :=
  { txe := w.getLsbD 0, txis := w.getLsbD 1, rxne := w.getLsbD 2, nackf := w.getLsbD 4, stopf := w.getLsbD 5
    tc := w.getLsbD 6, arlo := w.getLsbD 9, busy := w.getLsbD 15 }

/-- A USART with a valid divisor. -/
def usart (cr1 isr : Word) : Usart := { Usart.reset with cr1 := cr1, brr := 0x0682#16, isr := usartFlags isr }

/-- An enabled I2C. -/
def i2c (phase : Phase) (cr2 isr : Word) (remaining : Nat) : I2c :=
  { I2c.reset with pe := true, phase := phase, cr2 := cr2, isr := i2cFlags isr, remaining := remaining }

def spi (cr1 cr2 : Word) (txf rxf : List Byte) : Spi := { Spi.reset with cr1 := cr1, cr2 := cr2, txf := txf, rxf := rxf }

/-- ISR as HOST would read it. -/
def usartIsr (s : State) : Word := s.usart.isr.word
def i2cIsr (s : State) : Word := s.i2c.isr.word

/-! ### WellFormed -/

theorem test_wf_iser_last : (Instr.rdNvicIser 14#4).wf .default = true ∧ (Instr.wrNvicIser 14#4 0#32).wf .default = true := by decide
theorem test_wf_iser_past : (Instr.rdNvicIser 15#4).wf .default = false ∧ (Instr.wrNvicIser 15#4 0#32).wf .default = false := by decide
theorem test_wf_ipr_last : (Instr.rdNvicIpr 479#9).wf .default = true ∧ (Instr.wrNvicIpr 479#9 0#8).wf .default = true := by decide
theorem test_wf_ipr_past : (Instr.rdNvicIpr 480#9).wf .default = false ∧ (Instr.wrNvicIpr 480#9 0#8).wf .default = false := by decide
theorem test_wf_pend : (Instr.evNvicPend 479#9 true).wf .default = true ∧ (Instr.evNvicPend 480#9 true).wf .default = false := by decide

/-! ### Decoding: the command words of R104 and the labels of R107, written out -/

theorem test_decode_usart :
    ∀ q ∈ [([0x40000000#32], Instr.rdUsartCr1), ([0xC0000000#32, 0x5#32], .wrUsartCr1 0x5#32),
      ([0x40000004#32], .rdUsartCr2), ([0xC0000004#32, 0x802000#32], .wrUsartCr2 0x802000#32),
      ([0x4000000C#32], .rdUsartBrr), ([0xC000000C#32, 0x682#32], .wrUsartBrr 0x682#32),
      ([0x40000014#32], .rdUsartRtor), ([0xC0000014#32, 0x14#32], .wrUsartRtor 0x14#32),
      ([0x4000001C#32], .rdUsartIsr), ([0x40000020#32], .rdUsartIcr),
      ([0xC0000020#32, 0x81A#32], .wrUsartIcr 0x81A#32), ([0x40000024#32], .rdUsartRdr),
      ([0x40000028#32], .rdUsartTdr), ([0xC0000028#32, 0x41#32], .wrUsartTdr 0x41#32)],
    decodeBus .default q.1 = .ok (q.2, []) := by decide

theorem test_decode_i2c :
    ∀ q ∈ [([0x40001000#32], Instr.rdI2cCr1), ([0xC0001000#32, 0x1#32], .wrI2cCr1 0x1#32),
      ([0x40001004#32], .rdI2cCr2), ([0xC0001004#32, 0x220A0#32], .wrI2cCr2 0x220A0#32),
      ([0x40001010#32], .rdI2cTimingr), ([0xC0001010#32, 0x30420F13#32], .wrI2cTimingr 0x30420F13#32),
      ([0x40001018#32], .rdI2cIsr), ([0x4000101C#32], .rdI2cIcr), ([0xC000101C#32, 0x30#32], .wrI2cIcr 0x30#32),
      ([0x40001024#32], .rdI2cRxdr), ([0x40001028#32], .rdI2cTxdr),
      ([0xC0001028#32, 0x10#32], .wrI2cTxdr 0x10#32)],
    decodeBus .default q.1 = .ok (q.2, []) := by decide

theorem test_decode_spi :
    ∀ q ∈ [([0x40002000#32], Instr.rdSpiCr1), ([0xC0002000#32, 0x2314#32], .wrSpiCr1 0x2314#32),
      ([0x40002004#32], .rdSpiCr2), ([0xC0002004#32, 0x1700#32], .wrSpiCr2 0x1700#32),
      ([0x40002008#32], .rdSpiSr), ([0x0000200C#32], .rd8SpiDr), ([0x2000200C#32], .rd16SpiDr),
      ([0x8000200C#32, 0x9F#32], .wr8SpiDr 0x9F#8), ([0xA000200C#32, 0x3412#32], .wr16SpiDr 0x3412#16)],
    decodeBus .default q.1 = .ok (q.2, []) := by decide

theorem test_decode_nvic :
    ∀ q ∈ [([0x40003038#32], Instr.rdNvicIser 14#4), ([0xC0003004#32, 0x1#32], .wrNvicIser 1#4 0x1#32),
      ([0x000041DF#32], .rdNvicIpr 479#9), ([0x800041DF#32, 0x40#32], .wrNvicIpr 479#9 0x40#8)],
    decodeBus .default q.1 = .ok (q.2, []) := by decide

theorem test_decode_events :
    ∀ q ∈ [([0x01#8], Instr.evUsartClk), ([0x02#8, 0x01#8], .evUsartTick true), ([0x10#8], .evI2cStart),
      ([0x11#8, 0x01#8], .evI2cAddr true false), ([0x12#8, 0x02#8], .evI2cTxByte false true),
      ([0x13#8, 0x7F#8], .evI2cRxByte 0x7F#8), ([0x14#8], .evI2cStop), ([0x15#8], .evI2cBusFree),
      ([0x20#8], .evSpiLoad), ([0x21#8, 0x01#8], .evSpiBit true), ([0x22#8, 0x00#8], .evSpiModf false),
      ([0x30#8, 0xDF#8, 0x03#8], .evNvicPend 479#9 true)],
    decodeEvent .default q.1 = .ok (q.2, []) := by decide

/-- The refused rows of the decoding table of 95_test_vectors.md, Part 2. -/
theorem test_decode_refused :
    ∀ q ∈ [([0xC000001C#32, 0#32], Reject.writeToReadOnly), ([0x0000001C#32], .width),
      ([0xC000200C#32, 0#32], .width), ([0x2000200D#32], .misaligned), ([0x40000008#32], .unmappedOffset),
      ([0xC000303C#32, 1#32], .indexOutOfRange), ([0x800041E0#32, 0#32], .indexOutOfRange),
      ([0x40005000#32], .outsideBlock), ([0x60000000#32], .badCommand), ([0x40010000#32], .badCommand),
      ([0x8000200C#32, 0x100#32], .badCommand), ([0xC0000000#32], .truncated)],
    decodeBus .default q.1 = .error q.2 := by decide

theorem test_decode_refused_events :
    decodeEvent .default [0x03#8] = .error .unknownEvent ∧ decodeEvent .default [0x30#8, 0xDF#8] = .error .truncated ∧
    decodeEvent .default [0x02#8, 0x02#8] = .error .badOperand ∧
    decodeEvent .default [0x30#8, 0xE0#8, 0x01#8] = .error .indexOutOfRange := by decide

theorem test_table_words :
    decodeTableWord 32 0x40000000 = some .rdUsartCr1 ∧ decodeTableWord 32 0xC0000028 = some (.wrUsartTdr 0#32) ∧
    decodeTableWord 8 0x30 = some (.evNvicPend 0#9 false) := by decide

/-! ### USART steps (41_usart.md) -/

/-- U8: accepted after BRR; refused before; the reserved value; the guard. -/
theorem test_wrUsartCr1 :
    after (exec (.wrUsartCr1 0x5#32) (withUsart (usart 0#32 0xC0#32))) (·.usart.cr1) = some 0x5#32 ∧
    refusalIn (exec (.wrUsartCr1 0x5#32) State.reset) = some .badDivisor ∧
    refusalIn (exec (.wrUsartCr1 0x10001005#32) State.reset) = some .reservedValue ∧
    refusalIn (exec (.wrUsartCr1 0x2#32) State.reset) = some .reservedBit := by decide

theorem test_wrUsartCr1_running :
    refusalIn (exec (.wrUsartCr1 0x8005#32) (withUsart (usart 0x5#32 0xC0#32))) = some .configWhileEnabled ∧
    after (exec (.wrUsartCr1 0x5#32) (withUsart (usart 0xD#32 0x80#32))) (·.usart.cr1) = some 0x5#32 ∧
    after (exec (.wrUsartCr1 0x0#32) (withUsart { usart 0x5#32 0xE8#32 with rdr := 0x41#9 }))
      (fun t => (usartIsr t, t.usart.rdr)) = some (0xC0#32, 0x41#9) := by decide

/-- U8. -/
theorem test_wrUsartCr2 :
    refusalIn (exec (.wrUsartCr2 0x1000#32) State.reset) = some .reservedValue ∧
    refusalIn (exec (.wrUsartCr2 0x2000#32) (withUsart (usart 0x5#32 0xC0#32))) = some .configWhileEnabled ∧
    after (exec (.wrUsartCr2 0x802000#32) State.reset) (fun t => (t.usart.nStop, UsartCr2.rtoen t.usart.cr2)) =
      some (2, true) := by decide

/-- U8. -/
theorem test_wrUsartBrr :
    refusalIn (exec (.wrUsartBrr 0x10000#32) State.reset) = some .reservedBit ∧
    refusalIn (exec (.wrUsartBrr 0x683#32) (withUsart (usart 0x5#32 0xC0#32))) = some .configWhileEnabled ∧
    after (exec (.wrUsartBrr 0x682#32) (withUsart (usart 0x5#32 0xC0#32))) (·.usart.brr) = some 0x682#16 := by
  decide

/-- U8 and the example of R179. -/
theorem test_wrUsartRtor :
    after (exec (.wrUsartRtor 0x14#32) (withUsart (usart 0x5#32 0xC0#32))) (·.usart.rto) = some 20#24 ∧
    refusalIn (exec (.wrUsartRtor 0x1000000#32) State.reset) = some .reservedBit := by decide

/-- U7. -/
theorem test_wrUsartIcr :
    after (exec (.wrUsartIcr 0x81A#32) (withUsart (usart 0x5#32 0x8DA#32))) usartIsr = some 0xC0#32 ∧
    after (exec (.wrUsartIcr 0x40#32) State.reset) usartIsr = some 0x80#32 ∧
    refusalIn (exec (.wrUsartIcr 0x20#32) State.reset) = some .reservedBit := by decide

/-- U4, U8. -/
theorem test_wrUsartTdr :
    after (exec (.wrUsartTdr 0x41#32) (withUsart (usart 0xD#32 0xC0#32))) (fun t => (usartIsr t, t.usart.tdr)) =
      some (0#32, 0x41#9) ∧
    refusalIn (exec (.wrUsartTdr 0x41#32) State.reset) = some .disabled ∧
    refusalIn (exec (.wrUsartTdr 0x200#32) State.reset) = some .reservedBit := by decide

/-- The examples of R172 and R181; H3. -/
theorem test_usart_reads :
    after (exec .rdUsartRdr (withUsart { usart 0x5#32 0xE0#32 with rdr := 0xD#9 })) (fun t => (t.rdata, usartIsr t)) =
      some (0xD#32, 0xC0#32) ∧
    after (exec .rdUsartIsr State.reset) (·.rdata) = some 0xC0#32 ∧
    after (exec .rdUsartIcr (withUsart (usart 0x5#32 0x8DA#32))) (·.rdata) = some 0#32 ∧
    after (exec .rdUsartTdr (withUsart { usart 0x5#32 0xC0#32 with tdr := 0x1FF#9 })) (·.rdata) = some 0x1FF#32 := by
  decide

/-- P1 operation 6 and its end state. -/
theorem test_usart_config_reads :
    after (exec .rdUsartCr1 (withUsart (usart 0x5#32 0xC0#32))) (·.rdata) = some 0x5#32 ∧
    after (exec .rdUsartCr2 (withUsart { usart 0#32 0xC0#32 with cr2 := 0x800000#32 })) (·.rdata) = some 0x800000#32 ∧
    after (exec .rdUsartBrr (withUsart (usart 0#32 0xC0#32))) (·.rdata) = some 0x682#32 ∧
    after (exec .rdUsartRtor (withUsart { usart 0#32 0xC0#32 with rto := 0xFFFFFF#24 })) (·.rdata) =
      some 0xFFFFFF#32 := by decide

/-- U3: DIV = 40 from acc 32 makes a tick and leaves 8; from acc 8 it makes none and leaves 24. -/
theorem test_evUsartClk :
    after (exec .evUsartClk (withUsart { usart 0x5#32 0xC0#32 with brr := 40#16, brgAcc := 32 }))
      (fun t => (t.usart.brgAcc, t.usart.draws)) = some (8, 1) ∧
    after (exec .evUsartClk (withUsart { usart 0x5#32 0xC0#32 with brr := 40#16, brgAcc := 8 }))
      (fun t => (t.usart.brgAcc, t.usart.draws)) = some (24, 0) := by
  have tick : ∀ p : Bool, after (exec (.evUsartTick p) (withUsart { usart 0x5#32 0xC0#32 with
      brr := 40#16, brgAcc := 8, draws := 1 })) (fun t => (t.usart.brgAcc, t.usart.draws)) = some (8, 1) := by
    decide
  exact ⟨tick (Config.rxDraw 0), by decide⟩

/-- U8 and R381: the fault is recorded and the run goes on; the write takes place; with UE = 0 in the same write
the block is at its reset values. -/
theorem test_wrUsartCr1_fault :
    after (exec (.wrUsartCr1 0x5#32) (withUsart (usart 0xD#32 0x40#32)))
      (fun t => (t.usart.fault, t.usart.torn, t.usart.cr1)) = some (some .txStoppedInFrame, true, 0x5#32) ∧
    after (exec (.wrUsartCr1 0x0#32) (withUsart (usart 0xD#32 0x40#32)))
      (fun t => (t.usart.fault, t.usart.torn, usartIsr t)) = some (some .txStoppedInFrame, false, 0xC0#32) :=
  ⟨rfl, rfl⟩

/-- U4, boundaries B1 and B11. -/
theorem test_evUsartTick_transmit :
    after (exec (.evUsartTick true) (withUsart { usart 0xD#32 0#32 with
        tdr := 0x41#9, tx := { UsartTx.reset with osc := 15 } }))
      (fun t => (usartIsr t, t.usart.txPin, t.usart.tx.tsr)) = some (0x80#32, false, 0x41#9) ∧
    after (exec (.evUsartTick true) (withUsart { usart 0xD#32 0x80#32 with
        tx := { UsartTx.reset with state := .stop, osc := 15 } }))
      (fun t => (usartIsr t, t.usart.txPin, t.usart.tx.state)) = some (0xC0#32, true, .idle) := by decide

/-- U5 at the completion tick: the character; a stop bit sampled 0; an overrun. -/
theorem test_evUsartTick_receive :
    let rx := { UsartRx.reset with state := RxState.stop, rsr := 0xD#9, osc := 7 }
    after (exec (.evUsartTick true) (withUsart { usart 0x5#32 0xC0#32 with rx := rx }))
      (fun t => (usartIsr t, t.usart.rdr, t.usart.rx.idleArmed)) = some (0xE0#32, 0xD#9, true) ∧
    after (exec (.evUsartTick false) (withUsart { usart 0x5#32 0xC0#32 with rx := rx }))
      (fun t => (usartIsr t, t.usart.rdr)) = some (0xE2#32, 0xD#9) ∧
    after (exec (.evUsartTick false) (withUsart { usart 0x5#32 0xE0#32 with rx := rx, rdr := 0x41#9 }))
      (fun t => (usartIsr t, t.usart.rdr)) = some (0xE8#32, 0x41#9) := by decide

/-- U1 and the example of R151. -/
theorem test_usartDiv :
    usartDiv 0x0682#16 false = 1666 ∧ usartDiv 0x0D02#16 true = 3332 ∧ badDivisor 0x0D0A#16 true = true ∧
    badDivisor 0x000F#16 false = true ∧ badDivisor 0x0010#16 false = false ∧ badDivisor 0x0010#16 true = false := by
  decide

/-- U2. -/
theorem test_driverBrr :
    driverBrr 16000 9600 false = some 0x0682#16 ∧ driverBrr 16000 9600 true = some 0x0D02#16 ∧
    driverBrr 110000 115200 true = some 0x0772#16 ∧ driverBrr 4000 921600 false = none := by decide

/-- The same write under a layout that exchanges UE and RE. -/
theorem test_wrUsartCr1_layout :
    after (exec (.wrUsartCr1 0x1#32) (under State.reset otherParams)) (·.usart.cr1) = some 0x4#32 ∧
    after (exec .rdUsartCr1 (under (withUsart (usart 0x4#32 0xC0#32)) otherParams)) (·.rdata) = some 0x1#32 := by
  decide

/-! ### I2C steps (42_i2c.md) -/

/-- I3, last row; R220's example. -/
theorem test_wrI2cCr1 :
    after (exec (.wrI2cCr1 0#32) (withI2c (i2c .txWait 0x260A0#32 0x8003#32 2)))
      (fun t => (i2cIsr t, t.i2c.cr2, t.i2c.phase, t.i2c.scl)) = some (1#32, 0x200A0#32, .idle, true) ∧
    after (exec (.wrI2cCr1 1#32) State.reset) (·.i2c.pe) = some true := by decide

/-- I4. -/
theorem test_wrI2cCr2 :
    after (exec (.wrI2cCr2 0x220A0#32) State.reset) (·.i2c.cr2) = some 0x200A0#32 ∧
    refusalIn (exec (.wrI2cCr2 0x6000#32) (withI2c (i2c .idle 0#32 1#32 0))) = some .startAndStop ∧
    refusalIn (exec (.wrI2cCr2 0x8000#32) (withI2c (i2c .idle 0#32 1#32 0))) = some .reservedBit ∧
    refusalIn (exec (.wrI2cCr2 0x320A0#32) (withI2c (i2c .idle 0x220A0#32 1#32 0))) = some .configWhileStart := by
  decide

/-- I3, the write with STOP in I_TC. -/
theorem test_wrI2cCr2_stop :
    after (exec (.wrI2cCr2 0x240A0#32) (withI2c (i2c .tc 0x200A0#32 0x8041#32 0)))
      (fun t => (i2cIsr t, t.i2c.cr2)) = some (0x8001#32, 0x240A0#32) := by decide

/-- I4. -/
theorem test_wrI2cTimingr :
    refusalIn (exec (.wrI2cTimingr 0x30420F13#32) (withI2c (i2c .idle 0#32 1#32 0))) = some .configWhileEnabled ∧
    after (exec (.wrI2cTimingr 0x30420F13#32) State.reset) (·.i2c.timingr) = some 0x30420F13#32 ∧
    refusalIn (exec (.wrI2cTimingr 0x01000000#32) State.reset) = some .reservedBit := by decide

/-- I4. -/
theorem test_wrI2cIcr :
    after (exec (.wrI2cIcr 0x30#32) (withI2c (i2c .idle 0#32 0x31#32 0))) i2cIsr = some 1#32 ∧
    refusalIn (exec (.wrI2cIcr 0x40#32) State.reset) = some .reservedBit := by decide

/-- I3, I4. -/
theorem test_wrI2cTxdr :
    after (exec (.wrI2cTxdr 0x10#32) (withI2c (i2c .txWait 0x200A0#32 0x8003#32 2)))
      (fun t => (i2cIsr t, t.i2c.txdr, t.i2c.txEnabled)) = some (0x8000#32, 0x10#8, true) ∧
    refusalIn (exec (.wrI2cTxdr 0x10#32) State.reset) = some .disabled := by decide

/-- I3, the read of RXDR; R227's example; R223 and R225. -/
theorem test_i2c_reads :
    after (exec .rdI2cRxdr (withI2c { i2c .tc 0#32 0x8045#32 0 with rxdr := 0x7F#8 })) (fun t => (t.rdata, i2cIsr t)) =
      some (0x7F#32, 0x8041#32) ∧
    after (exec .rdI2cIsr (withI2c (i2c .tc 0#32 0x8041#32 0))) (·.rdata) = some 0x8041#32 ∧
    after (exec .rdI2cCr2 (withI2c (i2c .idle 0x220A0#32 1#32 0))) (·.rdata) = some 0x220A0#32 ∧
    after (exec .rdI2cTimingr (withI2c { i2c .idle 0#32 1#32 0 with timingr := 0x30420F13#32 })) (·.rdata) =
      some 0x30420F13#32 := by decide

/-- R221, R229, R231. -/
theorem test_i2c_other_reads :
    after (exec .rdI2cCr1 (withI2c (i2c .idle 0#32 1#32 0))) (·.rdata) = some 1#32 ∧
    after (exec .rdI2cIcr (withI2c (i2c .idle 0#32 0x231#32 0))) (·.rdata) = some 0#32 ∧
    after (exec .rdI2cTxdr (withI2c { i2c .idle 0#32 1#32 0 with txdr := 0xAB#8 })) (·.rdata) = some 0xAB#32 := by
  decide

/-- I3; I4's RELOAD. -/
theorem test_evI2cStart :
    after (exec .evI2cStart (withI2c (i2c .idle 0x220A0#32 1#32 0)))
      (fun t => (i2cIsr t, t.i2c.phase, t.i2c.remaining)) = some (0x8001#32, .addr, 2) ∧
    refusalIn (exec .evI2cStart (withI2c (i2c .idle 0x10220A0#32 1#32 0))) = some .reloadAutoend := by decide

/-- I3, the three answers to an address. -/
theorem test_evI2cAddr :
    after (exec (.evI2cAddr true false) (withI2c (i2c .addr 0x220A0#32 0x8001#32 2)))
      (fun t => (i2cIsr t, t.i2c.phase, t.i2c.cr2)) = some (0x8003#32, .txWait, 0x200A0#32) ∧
    after (exec (.evI2cAddr false false) (withI2c (i2c .addr 0x220A0#32 0x8001#32 2)))
      (fun t => (i2cIsr t, t.i2c.phase)) = some (0x31#32, .idle) ∧
    after (exec (.evI2cAddr true true) (withI2c (i2c .addr 0x220A0#32 0x8001#32 2)))
      (fun t => (i2cIsr t, t.i2c.phase)) = some (0x8201#32, .lost) := by decide

/-- I2. -/
theorem test_addressPhase :
    I2cCr2.addressPhase 0x000000A0#32 = [.sent 0xA0#8] ∧ I2cCr2.addressPhase 0x000004A0#32 = [.sent 0xA1#8] ∧
    I2cCr2.addressPhase 0x000003A1#32 = [.sent 0xA0#8] ∧
    I2cCr2.addressPhase 0x00000A50#32 = [.sent 0xF4#8, .sent 0x50#8] ∧
    I2cCr2.addressPhase 0x00000E50#32 = [.sent 0xF4#8, .sent 0x50#8, .repeatedStart, .sent 0xF5#8] ∧
    I2cCr2.addressPhase 0x00001E50#32 = [.sent 0xF5#8] := by decide

/-- I3. -/
theorem test_evI2cTxByte :
    after (exec (.evI2cTxByte true false) (withI2c { i2c .txWait 0x200A0#32 0x8000#32 2 with txdr := 0x10#8 }))
      (fun t => (i2cIsr t, t.i2c.remaining, t.i2c.wire)) = some (0x8003#32, 1, [.sent 0x10#8, .targetAck]) ∧
    after (exec (.evI2cTxByte true false) (withI2c { i2c .txWait 0x200A0#32 0x8000#32 1 with txdr := 0xAB#8 }))
      (fun t => (i2cIsr t, t.i2c.phase)) = some (0x8041#32, .tc) ∧
    after (exec (.evI2cTxByte false false) (withI2c { i2c .txWait 0x200A0#32 0x8000#32 1 with txdr := 0xAB#8 }))
      (fun t => (i2cIsr t, t.i2c.phase, t.i2c.wire)) = some (0x31#32, .idle, [.sent 0xAB#8, .targetNack, .stop]) := by
  decide

/-- R202: a START, a byte most significant bit first with the target's ACK, a STOP, as the master samples them. -/
theorem test_lines :
    (I2c.sdaSamples { I2c.reset with wire := [.sent 0xA0#8, .targetAck] }) =
      [true, false, true, false, false, false, false, false, false] ∧
    (linesOf .start).map (fun l => (l.scl, l.sda)) = [(true, true), (true, false)] ∧
    (linesOf .stop).map (fun l => (l.scl, l.sda)) = [(false, false), (true, false), (true, true)] ∧
    lineLevel [true, false, true] = false := by decide

/-- I3. -/
theorem test_evI2cRxByte :
    after (exec (.evI2cRxByte 0x7F#8) (withI2c (i2c .rxByte 0x104A0#32 0x8001#32 2)))
      (fun t => (i2cIsr t, t.i2c.remaining, t.i2c.wire)) = some (0x8005#32, 1, [.received 0x7F#8, .ack]) ∧
    after (exec (.evI2cRxByte 0x7F#8) (withI2c (i2c .rxByte 0x104A0#32 0x8001#32 1)))
      (fun t => (i2cIsr t, t.i2c.phase, t.i2c.wire)) = some (0x8045#32, .tc, [.received 0x7F#8, .nack]) := by decide

/-- I3. -/
theorem test_evI2cStop :
    after (exec .evI2cStop (withI2c (i2c .tc 0x240A0#32 0x8001#32 0)))
      (fun t => (i2cIsr t, t.i2c.phase, t.i2c.cr2, t.i2c.scl)) = some (0x21#32, .idle, 0x200A0#32, true) := by decide

/-- I3. -/
theorem test_evI2cBusFree :
    after (exec .evI2cBusFree (withI2c (i2c .lost 0x200A0#32 0x8201#32 0))) (fun t => (i2cIsr t, t.i2c.phase)) =
      some (0x201#32, .idle) := by decide

/-- I1. -/
theorem test_timing :
    Timingr.tPresc 0x30420F13#32 = 4 ∧ Timingr.tScll 0x30420F13#32 = 80 ∧ Timingr.tSclh 0x30420F13#32 = 64 ∧
    Timingr.tSdadel 0x30420F13#32 = 8 ∧ Timingr.tScldel 0x30420F13#32 = 20 := by decide

/-! ### SPI steps (43_spi.md) -/

/-- S6. -/
theorem test_wrSpiCr1 :
    after (exec (.wrSpiCr1 0x2354#32) (withSpi (spi 0x2314#32 0x1700#32 [] []))) (·.spi.cr1) = some 0x2354#32 ∧
    refusalIn (exec (.wrSpiCr1 0x40#32) State.reset) = some .slaveMode ∧
    refusalIn (exec (.wrSpiCr1 0x3314#32) State.reset) = some .crcPhase ∧
    refusalIn (exec (.wrSpiCr1 0x400#32) State.reset) = some .reservedBit := by decide

/-- S6 and A3. -/
theorem test_wrSpiCr1_running :
    refusalIn (exec (.wrSpiCr1 0x2355#32) (withSpi (spi 0x2354#32 0x1700#32 [] []))) = some .configWhileEnabled ∧
    after (exec (.wrSpiCr1 0x2314#32) (withSpi (spi 0x2354#32 0x1700#32 [] []))) (·.spi.cr1) = some 0x2314#32 := by
  decide

/-- R270, R274 and R381: the fault is recorded and the run goes on. -/
theorem test_wrSpiCr1_fault :
    after (exec (.wrSpiCr1 0x2314#32) (withSpi (spi 0x2354#32 0x1700#32 [0#8] [])))
      (fun t => (t.spi.fault, t.spi.torn, t.spi.cr1)) = some (some .disabledWhileBusy, true, 0x2314#32) := rfl

/-- S6. -/
theorem test_wrSpiCr2 :
    after (exec (.wrSpiCr2 0x100#32) State.reset) (·.spi.cr2) = some 0x700#32 ∧
    refusalIn (exec (.wrSpiCr2 0x700#32) (withSpi (spi 0x2354#32 0x1700#32 [] []))) = some .configWhileEnabled ∧
    refusalIn (exec (.wrSpiCr2 0x1F00#32) (withSpi (spi 0x2314#32 0x1700#32 [] [1#8]))) = some .configWithData ∧
    refusalIn (exec (.wrSpiCr2 0x2000#32) State.reset) = some .reservedBit := by decide

/-- S1. -/
theorem test_statusWord :
    (spi 0x2354#32 0x700#32 [0x9F#8] []).statusWord = 0x882#32 ∧
    (spi 0x2354#32 0x700#32 [0#8, 0#8, 0#8] []).statusWord = 0x1880#32 ∧
    (spi 0x2354#32 0x1700#32 [] [0#8]).statusWord = 0x203#32 ∧ (spi 0x2354#32 0x700#32 [] [0#8]).statusWord = 0x202#32 ∧
    { spi 0x2354#32 0x1700#32 [] [0#8, 0#8, 0#8, 0#8] with ovr := true }.statusWord = 0x643#32 ∧
    (spi 0x2314#32 0x700#32 [0#8, 0#8] []).statusWord = 0x1002#32 := by decide

/-- S4 and S7: the SR read that ends OVR's sequence and begins MODF's. -/
theorem test_rdSpiSr :
    after (exec .rdSpiSr (withSpi { spi 0x2354#32 0x1700#32 [] [2#8, 3#8, 4#8] with ovr := true, ovrSeq := true }))
      (fun t => (t.rdata, t.spi.ovr, t.spi.ovrSeq)) = some (0x643#32, false, false) ∧
    after (exec .rdSpiSr (withSpi { spi 0x2210#32 0x700#32 [] [] with modf := true }))
      (fun t => (t.rdata, t.spi.modf, t.spi.modfSeq)) = some (0x22#32, true, true) := by decide

/-- R256's example; S3, S5. -/
theorem test_rdSpiDr :
    after (exec .rd8SpiDr (withSpi (spi 0x2354#32 0x1700#32 [] [0x12#8, 0x34#8]))) (fun t => (t.rdata, t.spi.rxf)) =
      some (0x12#32, [0x34#8]) ∧
    after (exec .rd16SpiDr (withSpi (spi 0x2354#32 0x1700#32 [] [0x12#8, 0x34#8]))) (fun t => (t.rdata, t.spi.rxf)) =
      some (0x3412#32, []) ∧
    refusalIn (exec .rd8SpiDr State.reset) = some .rxFifoUnderflow ∧
    refusalIn (exec .rd16SpiDr (withSpi (spi 0#32 0x700#32 [] [1#8]))) = some .rxFifoUnderflow := by decide

/-- S3, S5. -/
theorem test_wrSpiDr :
    after (exec (.wr16SpiDr 0xBEEF#16) (withSpi (spi 0#32 0xF00#32 [] []))) (·.spi.txf) = some [0xEF#8, 0xBE#8] ∧
    refusalIn (exec (.wr8SpiDr 0x12#8) (withSpi (spi 0#32 0xF00#32 [] []))) = some .widthVsFrame ∧
    refusalIn (exec (.wr8SpiDr 0x12#8) (withSpi (spi 0#32 0x700#32 [1#8, 2#8, 3#8, 4#8] []))) = some .txFifoOverflow ∧
    refusalIn (exec (.wr16SpiDr 0x12#16) (withSpi (spi 0#32 0x700#32 [1#8, 2#8, 3#8] []))) = some .txFifoOverflow := by
  decide

/-- R271, R273: P4's operation 3 and S6. -/
theorem test_spi_config_reads :
    after (exec .rdSpiCr1 (withSpi (spi 0x2314#32 0x1700#32 [] []))) (·.rdata) = some 0x2314#32 ∧
    after (exec .rdSpiCr2 (withSpi (spi 0x2314#32 0x1700#32 [] []))) (·.rdata) = some 0x1700#32 := by decide

/-- S2, S3. -/
theorem test_evSpiLoad :
    after (exec .evSpiLoad (withSpi (spi 0x2354#32 0x1700#32 [0x9F#8] [])))
      (fun t => (t.spi.sh.tx, t.spi.txf, t.spi.sh.busy)) = some (0x9F#16, [], true) ∧
    after (exec .evSpiLoad (withSpi (spi 0x2354#32 0xB00#32 [0xEF#8, 0xBE#8] []))) (·.spi.sh.tx) = some 0xEEF#16 := by
  decide

/-- S2: the first bit most significant first and least significant first; S4: the last bit with no room. -/
theorem test_evSpiBit :
    let sh := { busy := true, tx := 0x9F#16, rx := 0#16, cnt := 0 : Shifter }
    after (exec (.evSpiBit true) (withSpi { spi 0x2354#32 0x1700#32 [] [] with sh := sh }))
      (fun t => (t.spi.mosi, t.spi.sh.rx, t.spi.sh.cnt)) = some (true, 0x80#16, 1) ∧
    after (exec (.evSpiBit true) (withSpi { spi 0x23D4#32 0x1700#32 [] [] with sh := sh }))
      (fun t => (t.spi.mosi, t.spi.sh.rx)) = some (true, 0x01#16) ∧
    after (exec (.evSpiBit true) (withSpi { spi 0x2354#32 0x1700#32 [] [1#8, 2#8, 3#8, 4#8] with
        sh := { sh with cnt := 7 } })) (fun t => (t.spi.ovr, t.spi.rxf, t.spi.sh.busy)) =
      some (true, [1#8, 2#8, 3#8, 4#8], false) := by decide

/-- S7. -/
theorem test_evSpiModf :
    after (exec (.evSpiModf true) (withSpi (spi 0x2254#32 0x700#32 [] [])))
      (fun t => (t.spi.cr1, t.spi.modf, t.spi.statusWord)) = some (0x2210#32, true, 0x22#32) ∧
    after (exec (.evSpiModf true) (withSpi (spi 0x2354#32 0x700#32 [] []))) (fun t => (t.spi.cr1, t.spi.modf)) =
      some (0x2354#32, false) := by decide

/-! ### NVIC steps (44_nvic.md) -/

/-- V1, V2, V11. -/
theorem test_nvic_iser :
    after (exec (.wrNvicIser 1#4 0x20000000#32) (withNvic { Nvic.reset with iser := Nvic.reset.iser.set 1 1#32 }))
      (fun t => t.nvic.iser[1]) = some 0x20000001#32 ∧
    after (exec (.wrNvicIser 0#4 0#32) (withNvic { Nvic.reset with iser := Nvic.reset.iser.set 0 0x80000001#32 }))
      (fun t => t.nvic.iser[0]) = some 0x80000001#32 ∧
    after (exec (.rdNvicIser 14#4) (withNvic { Nvic.reset with iser := Nvic.reset.iser.set 14 0x80000000#32 }))
      (·.rdata) = some 0x80000000#32 ∧
    refusalIn (exec (.rdNvicIser 15#4) State.reset) = some .indexOutOfRange := by decide +kernel

/-- V4 and V5, whose PRIO_BITS is not the default. -/
theorem test_nvic_ipr_bits :
    after (exec (.wrNvicIpr 61#9 0x53#8) (under State.reset { Params.default with prioBits := 4 }))
      (fun t => t.nvic.priority 61) = some 0x50#8 ∧
    after (exec (.wrNvicIpr 61#9 0x53#8) (under State.reset { Params.default with prioBits := 8 }))
      (fun t => t.nvic.priority 61) = some 0x53#8 := by decide +kernel

/-- V3, V6, V11 (PRIO_BITS = 3). -/
theorem test_nvic_ipr :
    after (exec (.wrNvicIpr 61#9 0x53#8) State.reset) (fun t => t.nvic.priority 61) = some 0x40#8 ∧
    after (exec (.wrNvicIpr 479#9 0xFF#8) State.reset) (fun t => t.nvic.priority 479) = some 0xE0#8 ∧
    refusalIn (exec (.rdNvicIpr 480#9) State.reset) = some .indexOutOfRange := by decide +kernel

theorem test_rdNvicIpr :
    after (exec (.rdNvicIpr 61#9) (withNvic { Nvic.reset with ipr := Nvic.reset.ipr.set 61 0x40#8 })) (·.rdata) =
      some 0x40#32 := by decide +kernel

theorem test_evNvicPend :
    after (exec (.evNvicPend 479#9 true) State.reset) (fun t => (t.nvic.pending 479, t.nvic.pending 478)) =
      some (true, false) := by decide +kernel

/-! ### Witnesses: for each statement with hypotheses, states and operands that meet them, one for each
clause, at the boundary of its range -/

/-- A USART with UE, TE and RE set, a character waiting, and the detectors armed after a frame. -/
def usartRunning : Usart :=
  { usart 0xD#32 0#32 with
      tdr := 0x41#9, rx := { UsartRx.reset with idleArmed := true, rtoRun := true } }

/-- The same with UE, TE and RE set and nothing to do. -/
def usartReady : Usart := usart 0xD#32 0xC0#32

theorem usartRunning_inv : UsartInv usartRunning := by
  constructor <;> first | exact (setsOnly_iff _ _).2 (by decide) | decide

/-- A transmitter stopped inside a frame. -/
def usartTorn : Usart := { usart 0x5#32 0#32 with fault := some .txStoppedInFrame, torn := true }

theorem usartTorn_inv : UsartInv usartTorn := by
  constructor <;> first | exact (setsOnly_iff _ _).2 (by decide) | decide

theorem usartReady_inv : UsartInv usartReady := by
  constructor <;> first | exact (setsOnly_iff _ _).2 (by decide) | decide

/-- An I2C in the address phase of a two-byte write. -/
def i2cAddressing : I2c := { i2c .addr 0x220A0#32 0x8001#32 2 with scl := false, sda := false }

theorem i2cAddressing_inv : I2cInv i2cAddressing := by
  constructor <;> first | exact (setsOnly_iff _ _).2 (by decide) | decide

/-- An enabled SPI with a byte to send. -/
def spiReady : Spi := spi 0x2354#32 0x1700#32 [0x9F#8] []

theorem spiReady_inv : SpiInv spiReady := by
  constructor <;> first | exact (setsOnly_iff _ _).2 (by decide) | decide | exact fun _ h => nomatch h

/-- Windows one after another. -/
def someBases : Blk → Word
  | .usart => 0x40011000#32
  | .i2c => 0x40005400#32
  | .spi => 0x40013000#32
  | .nvicIser => 0xE000E100#32
  | .nvicIpr => 0xFFFFFE20#32

theorem reg_mem_all (r : Reg) : r ∈ Reg.all := by cases r <;> decide

/-- A layout is checked over the list of all registers. -/
theorem layoutValid_of {l : Layout}
    (h : ∀ r ∈ Reg.all, (l.of r).off.toNat % 4 = 0 ∧ (l.of r).off.toNat < 0x400 ∧
      (l.of r).pos.length = r.bits.length ∧ (l.of r).pos.Nodup ∧ ∀ j ∈ (l.of r).pos, j < 32)
    (apart : ∀ r ∈ Reg.all, ∀ q ∈ Reg.all, r.blk = q.blk → (l.of r).off = (l.of q).off → r = q) : LayoutValid l where
  aligned r := (h r (reg_mem_all r)).1
  inWindow r := (h r (reg_mem_all r)).2.1
  apart r q := apart r (reg_mem_all r) q (reg_mem_all q)
  onePlace r := (h r (reg_mem_all r)).2.2.1
  ownPlace r := (h r (reg_mem_all r)).2.2.2.1
  inWord r := (h r (reg_mem_all r)).2.2.2.2

theorem default_valid : ParamsValid .default :=
  ⟨by decide, by decide, by decide, layoutValid_of (by decide +kernel) (by decide +kernel)⟩

theorem other_valid : ParamsValid otherParams :=
  ⟨by decide, by decide, by decide, layoutValid_of (by decide +kernel) (by decide +kernel)⟩

theorem witness_DecodeOfEncode :
    ParamsValid .default ∧ ParamsValid otherParams ∧
    (Instr.wrNvicIpr 479#9 0xFF#8).wf .default = true ∧
    encode .default (.wrNvicIpr 479#9 0xFF#8) = .bus [0x800041DF#32, 0xFF#32] ∧
    (Instr.evNvicPend 479#9 true).wf .default = true ∧ encode .default (.evNvicPend 479#9 true) = .event [0x30#8, 0xDF#8, 0x03#8] :=
  ⟨default_valid, other_valid, by decide⟩

theorem witness_EncodeOfDecode :
    decodeBus .default [0x800041DF#32, 0xFF#32, 0x40000000#32] = .ok (.wrNvicIpr 479#9 0xFF#8, [0x40000000#32]) ∧
    decodeEvent .default [0x30#8, 0xDF#8, 0x03#8, 0x01#8] = .ok (.evNvicPend 479#9 true, [0x01#8]) ∧
    decodeBus otherParams [0x40000030#32] = .ok (.rdUsartCr1, []) := by decide

theorem witness_DecodeFollowsTheRowTable :
    ParamsValid .default ∧
    (0x10000000#32).extractLsb' 16 13 ≠ 0#13 ∧ (0x60000000#32).extractLsb' 29 2 = 0b11#2 ∧
    (∀ row ∈ busRows .default, row.covers 0x40000008#32 = false) ∧
    (∃ row ∈ busRows .default, row.covers 0x0000400F#32 = true ∧
      (row.build 0x0000400F#32 0#32).wf .default = true ∧ (0x0000400F#32).getLsbD 31 = false) ∧
    (∃ row ∈ busRows .default, row.covers 0x800041E0#32 = true ∧
      (row.build 0x800041E0#32 0#32).wf .default = false) ∧
    (∃ row ∈ busRows .default, row.covers 0x800041DF#32 = true ∧
      (row.build 0x800041DF#32 0#32).wf .default = true ∧ (0x800041DF#32).getLsbD 31 = true ∧
      (0xFF#32).toNat < 2 ^ (8 * 2 ^ ((0x800041DF#32).extractLsb' 29 2).toNat) ∧
      2 ^ (8 * 2 ^ ((0x800041DF#32).extractLsb' 29 2).toNat) ≤ (0x100#32).toNat) :=
  ⟨default_valid, by decide⟩

theorem witness_RefusedCommandWords :
    ParamsValid .default ∧ Reg.readOnly .usartIsr = true ∧
    -- widths: 8 bits at a 32-bit register, 32 bits at SPI.DR; ISER[14], IPR[479]
    (2 ^ Width.w8.code.toNat ∉ Reg.widths .usartIsr ∧ 2 ^ Width.w32.code.toNat ∉ Reg.widths .spiDr) ∧
    ((14#4).toNat < Params.default.nIser ∧ Width.w16 ≠ .w32 ∧ (479#9).toNat < Params.default.nLines ∧ Width.w16 ≠ .w8) ∧
    -- misaligned at both ends of a window and inside a register
    ((0x3FF#12).toNat < Blk.size .default .spi ∧ (0x3FF#12).toNat % 2 ^ Width.w16.code.toNat ≠ 0 ∧
      (0x001#12).toNat % 2 ^ Width.w32.code.toNat ≠ 0 ∧ (0x03A#12).toNat < Blk.size .default .nvicIser ∧
      (0x03A#12).toNat % 2 ^ Width.w32.code.toNat ≠ 0) ∧
    -- unmapped: an interior byte, the end of the window, a gap
    (∀ q ∈ [(0x001#12, 1), (0x3FF#12, 1), (0x3FE#12, 2), (0x008#12, 4)],
      q.1.toNat < 0x400 ∧ q.1.toNat % q.2 = 0 ∧
      ∀ r ∈ Reg.all, r.blk = .usart → (Layout.default.of r).off ≠ q.1) ∧
    ((0x03A#12).toNat < 4 * Params.default.nIser ∧ (0x03A#12).toNat % 4 ≠ 0 ∧ (0x03A#12).toNat % 2 = 0) ∧
    -- past the last index, both ends; past the window
    (∀ off ∈ [0x03C#12, 0x03F#12], 4 * Params.default.nIser ≤ off.toNat ∧ off.toNat < 0x40) ∧
    (∀ off ∈ [0x1E0#12, 0x1FF#12], Params.default.nLines ≤ off.toNat ∧ off.toNat < 0x200) ∧
    (0x40 ≤ (0x040#12).toNat ∧ 0x200 ≤ (0x200#12).toNat ∧ 0x400 ≤ (0x400#12).toNat) ∧
    ((0x40005000#32).extractLsb' 16 13 = 0#13 ∧ (0x40005000#32).extractLsb' 29 2 ≠ 0b11#2 ∧
      5 ≤ ((0x40005000#32).extractLsb' 12 4).toNat) :=
  ⟨default_valid, by decide⟩

theorem witness_LayoutMovesBits :
    LayoutValid otherParams.layout ∧ (Reg.bits .usartCr1)[0]? = some 0 ∧
    (otherParams.layout.of .usartCr1).pos[0]? = some 2 ∧ SetsOnly 0x5#32 (otherParams.layout.of .usartCr1).pos ∧
    SetsOnly 0x10000001#32 (Reg.bits .usartCr1) :=
  ⟨other_valid.layout, rfl, rfl, (setsOnly_iff _ _).2 (by decide), (setsOnly_iff _ _).2 (by decide)⟩

theorem witness_AddressesReachTheirWindow :
    (∀ b ∈ [Blk.usart, .i2c, .spi, .nvicIser, .nvicIpr], (someBases b).toNat + b.size .default ≤ 2 ^ 32) ∧
    (∀ b ∈ [Blk.usart, .i2c, .spi, .nvicIser, .nvicIpr], ∀ c ∈ [Blk.usart, .i2c, .spi, .nvicIser, .nvicIpr],
      b ≠ c → (someBases b).toNat + b.size .default ≤ (someBases c).toNat ∨
        (someBases c).toNat + c.size .default ≤ (someBases b).toNat) ∧
    (0x3FF#12).toNat < Blk.usart.size .default ∧ (0x1DF#12).toNat < Blk.nvicIpr.size .default ∧
    (∀ b ∈ [Blk.usart, .i2c, .spi, .nvicIser, .nvicIpr],
      ¬((someBases b).toNat ≤ (0x40011400#32).toNat ∧
        (0x40011400#32).toNat < (someBases b).toNat + b.size .default)) := by decide

theorem witness_StepFollowsTheSchedule :
    State.reset.turns = [] ∧
    (let s := { State.reset with turns := [.host] }; s.turns = .host :: [] ∧ s.hostStream = []) ∧
    (let s := { State.reset with turns := [.host], hostStream := [0x4000001C#32] }
     s.turns = .host :: [] ∧ decodeBus s.params s.hostStream = .ok (.rdUsartIsr, [])) ∧
    (let s := { State.reset with turns := [.host], hostStream := [0x60000000#32] }
     s.turns = .host :: [] ∧ s.hostStream ≠ [] ∧ decodeBus s.params s.hostStream = .error .badCommand) ∧
    (let s := { State.reset with turns := [.agent] }; s.turns = .agent :: [] ∧ s.agentStream = []) ∧
    (let s := { State.reset with turns := [.agent], agentStream := [0x13#8, 0x7F#8] }
     s.turns = .agent :: [] ∧ decodeEvent s.params s.agentStream = .ok (.evI2cRxByte 0x7F#8, [])) ∧
    (let s := { State.reset with turns := [.agent], agentStream := [0x03#8] }
     s.turns = .agent :: [] ∧ s.agentStream ≠ [] ∧ decodeEvent s.params s.agentStream = .error .unknownEvent) := by decide

theorem witness_PlacedOperationIsTheNextStep :
    ParamsValid State.reset.params ∧ (Instr.wrNvicIpr 479#9 0xFF#8).wf State.reset.params = true :=
  ⟨default_valid, by decide⟩

theorem witness_ResetStepRestoresEverything :
    let s := { withUsart usartRunning with turns := [.reset] }
    s.turns = .reset :: [] ∧ agentEvent .evUsartClk = true := by decide

/-- CR1 writes that stop a frame, as the next step: the fault goes from none to recorded, and stays at a reset. -/
theorem witness_FaultsAreRecorded :
    (∃ t, step (place (withUsart usartRunning) (.bus [0xC0000000#32, 0x5#32])) = .next t ∧
      usartRunning.fault = none ∧ t.usart.fault ≠ none) ∧
    (∃ t, step (place (withSpi spiReady) (.bus [0xC0002000#32, 0x2314#32])) = .next t ∧
      spiReady.fault = none ∧ t.spi.fault ≠ none) ∧
    ∃ t, step { withUsart usartTorn with turns := [.reset] } = .next t ∧ usartTorn.fault ≠ none :=
  ⟨⟨_, rfl, rfl, nofun⟩, ⟨_, rfl, rfl, nofun⟩, ⟨_, rfl, nofun⟩⟩

theorem witness_ResetStateReads : (14#4).toNat < 15 ∧ (479#9).toNat < 480 := by decide

theorem witness_UsartInvariantKept :
    UsartInv (place (withUsart usartRunning) (.event [0x02#8, 0x00#8])).usart ∧
    (∃ t, step (place (withUsart usartRunning) (.event [0x02#8, 0x00#8])) = .next t) ∧ UsartInv usartTorn :=
  ⟨usartRunning_inv, ⟨_, rfl⟩, usartTorn_inv⟩

theorem witness_I2cInvariantKept :
    I2cInv (place (withI2c i2cAddressing) (.event [0x11#8, 0x01#8])).i2c ∧
    ∃ t, step (place (withI2c i2cAddressing) (.event [0x11#8, 0x01#8])) = .next t :=
  ⟨i2cAddressing_inv, _, rfl⟩

theorem witness_SpiInvariantKept :
    SpiInv (place (withSpi spiReady) (.event [0x20#8])).spi ∧
    ∃ t, step (place (withSpi spiReady) (.event [0x20#8])) = .next t :=
  ⟨spiReady_inv, _, rfl⟩

theorem nvicReset_inv (p : Params) : NvicInv p Nvic.reset := by
  constructor
  intro n j _
  by_cases h : n < 512 <;> simp [Nvic.priority, Nvic.reset, h]

theorem witness_NvicInvariantKept :
    NvicInv State.reset.params (place State.reset (.bus [0x8000403D#32, 0x53#32])).nvic ∧
    ∃ t, step (place State.reset (.bus [0x8000403D#32, 0x53#32])) = .next t :=
  ⟨nvicReset_inv _, _, rfl⟩

theorem witness_OperationsStayInTheirSubBlock :
    (∃ t, exec (.evUsartTick false) (withUsart usartRunning) = .next t) ∧ subBlock (.evUsartTick false) = .usart ∧
    encode .default (.evUsartTick false) = .event [0x02#8, 0x00#8] :=
  ⟨⟨_, rfl⟩, by decide⟩

theorem witness_DifferentSubBlocksCommute :
    subBlock (.wrUsartTdr 0x41#32) ≠ subBlock .rdSpiCr1 ∧
    (∃ t, runOps [.wrUsartTdr 0x41#32, .rdSpiCr1] (withUsart usartReady) = .next t) ∧
    ∀ cmd, encode .default (.wrUsartTdr 0x41#32) ≠ .bus [cmd] :=
  ⟨by decide, ⟨_, rfl⟩, fun _ h => by simp [encode, writePacket] at h⟩

theorem witness_DisabledStepsChangeNothing :
    ∀ i ∈ [Instr.evUsartClk, .evUsartTick true, .evI2cStart, .evI2cAddr true false, .evI2cTxByte true false,
      .evI2cRxByte 0#8, .evI2cStop, .evI2cBusFree, .evSpiLoad, .evSpiBit true, .evSpiModf false],
    eventEnabled State.reset i = false := by decide

theorem witness_FlagsAreSticky :
    (∃ t, exec (.wrUsartIcr 0x81A#32) (withUsart (usart 0x5#32 0x8DA#32)) = .next t ∧
      UsartFlags.fe (usartFlags 0x8DA#32) = true ∧ UsartFlags.fe t.usart.isr = false) ∧
    (∃ t, exec (.wrUsartCr1 0#32) (withUsart (usart 0x5#32 0x8DA#32)) = .next t ∧ t.usart.isr.rtof = false) ∧
    (∃ t, exec (.wrI2cIcr 0x230#32) (withI2c (i2c .idle 0#32 0x231#32 0)) = .next t ∧
      (i2cFlags 0x231#32).arlo = true ∧ t.i2c.isr.arlo = false) ∧
    (∃ t, exec .rdSpiSr (withSpi { spi 0x2354#32 0x1700#32 [] [] with ovr := true, ovrSeq := true }) = .next t ∧
      t.spi.ovr = false) ∧
    (∃ t, exec (.wrSpiCr1 0x2310#32) (withSpi { spi 0x2310#32 0x1700#32 [] [] with
      modf := true, modfSeq := true }) = .next t ∧ t.spi.modf = false) :=
  ⟨⟨_, rfl, rfl, rfl⟩, ⟨_, rfl, rfl⟩, ⟨_, rfl, rfl, rfl⟩, ⟨_, rfl, rfl⟩, ⟨_, rfl, rfl⟩⟩

theorem witness_EnablesAreNeverTakenBack :
    ∃ t, exec (.wrNvicIser 14#4 0x80000000#32) State.reset = .next t ∧
      State.reset.nvic.enabled 479 = false ∧ t.nvic.enabled 479 = true :=
  ⟨_, rfl, by decide +kernel, by decide +kernel⟩

theorem witness_GuardedFieldsHeld :
    (∃ t, exec (.wrUsartCr1 0x5#32) (withUsart usartReady) = .next t ∧ UsartCr1.ue usartReady.cr1 = true ∧
      UsartCr1.ue t.usart.cr1 = true) ∧
    (∃ t, exec (.wrI2cTimingr 0#32) (withI2c (i2c .idle 0#32 1#32 0)) = .next t ∧ t.i2c.pe = true) ∧
    (∃ t, exec (.wrSpiCr2 0x1700#32) (withSpi spiReady) = .next t ∧ SpiCr1.spe spiReady.cr1 = true ∧
      SpiCr1.spe t.spi.cr1 = true) :=
  ⟨⟨_, rfl, rfl, rfl⟩, ⟨_, rfl, rfl⟩, ⟨_, rfl, rfl, rfl⟩⟩

/-- A run in which only ticks happen, a character waiting. -/
def tickedUsart : Nat → Usart
  | 0 => usartRunning
  | n + 1 => (tickedUsart n).tick true

theorem tickedUsart_cr1 (n : Nat) : (tickedUsart n).cr1 = 0xD#32 := by
  induction n with
  | zero => rfl
  | succ n ih => exact (Usart.tick_config _ _).1.trans ih

/-- A run that begins with an address that is not acknowledged; then only an input of the NVIC stays as it is. -/
def addressedI2c : Nat → I2c
  | 0 => i2cAddressing
  | _ + 1 => i2cAddressing.sAddr false false

/-- A run that exchanges a frame of four bits; then the slave-select is sampled high. -/
def nibble : Spi := spi 0x2354#32 0x1300#32 [0x9#8] []

def shiftedSpi : Nat → Spi
  | 0 => nibble
  | 1 => nibble.sLoad
  | 2 => [true].foldl Spi.sBit nibble.sLoad
  | 3 => [true, false].foldl Spi.sBit nibble.sLoad
  | 4 => [true, false, false].foldl Spi.sBit nibble.sLoad
  | _ + 5 => [true, false, false, true].foldl Spi.sBit nibble.sLoad

theorem shiftedSpi_done (n : Nat) : shiftedSpi (n + 5) = shiftedSpi 5 := rfl

def shiftEvents : Nat → Option Instr
  | 0 => some .evSpiLoad
  | 1 | 4 => some (.evSpiBit true)
  | 2 | 3 => some (.evSpiBit false)
  | _ + 5 => some (.evSpiModf true)

/-- An event that happens, with HOST issuing nothing more. -/
theorem moved_event {s t : State} {i : Instr} (he : ∃ bytes, encode s.params.layout i = .event bytes)
    (h : eventEnabled s i = true) (hx : exec i s = .next t) : Moved s (some i) t :=
  ⟨t, [], by simp [State.issued], .inr ⟨he, h, hx⟩⟩

/-- HOST about to read USART.ISR once more, after a read of it. -/
def pollingState : State := { State.reset with hostStream := [0x4000001C#32], rdata := 0xC0#32 }

/-- A POLL of USART.ISR that never ends (R187) is a weakly fair run. -/
theorem test_endlessPoll :
    let σ := fun _ : Nat => pollingState
    let op := fun _ : Nat => some Instr.rdUsartIsr
    Run σ op ∧ WeaklyFair σ op := by
  refine ⟨⟨fun _ => ⟨{ pollingState with hostStream := [] }, [0x4000001C#32], rfl, .inl ⟨[], rfl, rfl⟩⟩⟩, ?_⟩
  have rest : ∀ a : AgentStep, a = .host ∨ a.enabled pollingState = false := by intro a; cases a <;> decide
  intro a n h
  refine (rest a).elim (fun ha => ⟨n, Nat.le_refl n, ha ▸ rfl⟩) fun off => ?_
  exact absurd (off.symm.trans (h n (Nat.le_refl n))) nofun

theorem onlyUsart_enabled (u : Usart) (a : AgentStep) (h : a ≠ .usart) : a.enabled (withUsart u) = false := by
  have reset : ∀ a : AgentStep, a = .usart ∨ a.enabled State.reset = false := by intro a; cases a <;> decide
  cases a <;> first | exact absurd rfl h | exact (reset _).resolve_left h

theorem witness_FairRunsProgress_usart :
    let σ := fun n => withUsart (tickedUsart n)
    let op := fun _ : Nat => some (Instr.evUsartTick true)
    Run σ op ∧ WeaklyFair σ op ∧
    (∀ m, 0 ≤ m → UsartCr1.ue (σ m).usart.cr1 = true ∧ UsartCr1.te (σ m).usart.cr1 = true) ∧
    UsartInv (σ 0).usart ∧ (σ 0).usart.torn = false ∧ (σ 0).usart.isr.txe = false ∧
    ∀ k, ∀ v, op k ≠ some (.wrUsartTdr v) := by
  have ue (n : Nat) : UsartCr1.ue (tickedUsart n).cr1 = true := by rw [tickedUsart_cr1]; rfl
  have te (n : Nat) : UsartCr1.te (tickedUsart n).cr1 = true := by rw [tickedUsart_cr1]; rfl
  refine ⟨⟨fun n => moved_event ⟨_, rfl⟩ (ue n) ?_⟩, ?_, fun m _ => ⟨ue m, te m⟩, usartRunning_inv, rfl, rfl, nofun⟩
  · simp only [exec, execEvUsartTick, withUsart, ue, whenEnabled]; rfl
  · intro a n h
    by_cases ha : a = .usart
    · exact ⟨n, Nat.le_refl n, ha ▸ rfl⟩
    · exact absurd (h n (Nat.le_refl n)) (by rw [onlyUsart_enabled _ a ha]; decide)

theorem witness_FairRunsProgress_i2c :
    let σ := fun n => withI2c (addressedI2c n)
    let op := fun | 0 => some (Instr.evI2cAddr false false) | _ + 1 => some (.evNvicPend 0#9 false)
    Run σ op ∧ WeaklyFair σ op ∧ (∀ m, 0 ≤ m → (σ m).i2c.pe = true) ∧ (σ 0).i2c.phase = .addr := by
  have pend : exec (.evNvicPend 0#9 false) (withI2c (addressedI2c 1)) = .next (withI2c (addressedI2c 1)) := by
    simp [exec, execEvNvicPend, refuseIf, outOfRange, State.onNvic, State.setNvic, withI2c, State.reset,
      Params.default, Nvic.setPending, Nvic.reset]
  refine ⟨⟨?_⟩, ?_, fun m _ => by cases m <;> rfl, rfl⟩
  · rintro (_ | n)
    · exact moved_event ⟨_, rfl⟩ (by decide) rfl
    · exact moved_event ⟨_, rfl⟩ rfl pend
  · have rest : ∀ a : AgentStep, a.enabled (withI2c (addressedI2c 1)) = false := by intro a; cases a <;> decide
    intro a n h
    exact absurd ((rest a).symm.trans (h (n + 1) (Nat.le_succ n))) nofun

theorem witness_FairRunsProgress_spi :
    let σ := fun n => withSpi (shiftedSpi n)
    Run σ shiftEvents ∧ WeaklyFair σ shiftEvents ∧
    (∀ m, 0 ≤ m → SpiCr1.spe (σ m).spi.cr1 = true ∧ SpiCr1.mstr (σ m).spi.cr1 = true) ∧
    SpiInv (σ 0).spi ∧ (σ 0).spi.torn = false ∧
    ∀ m, 0 ≤ m → (∀ v, shiftEvents m ≠ some (.wr8SpiDr v)) ∧ ∀ v, shiftEvents m ≠ some (.wr16SpiDr v) := by
  refine ⟨⟨?_⟩, ?_, ?_, ?_, rfl, ?_⟩
  · have held : exec (.evSpiModf true) (withSpi (shiftedSpi 5)) = .next (withSpi (shiftedSpi 5)) := rfl
    rintro (_ | _ | _ | _ | _ | n)
    iterate 5 exact moved_event ⟨_, rfl⟩ rfl rfl
    exact moved_event ⟨_, rfl⟩ (by simp only [shiftedSpi_done]; rfl) held
  · have rest : ∀ a : AgentStep, a = .spiModf ∨ a.enabled (withSpi (shiftedSpi 5)) = false := by
      intro a; cases a <;> decide
    intro a n h
    refine (rest a).elim (fun ha => ⟨n + 5, Nat.le_add_right n 5, ha ▸ rfl⟩) fun off => ?_
    exact absurd (off.symm.trans (h (n + 5) (Nat.le_add_right n 5))) nofun
  · rintro (_ | _ | _ | _ | _ | n) _
    iterate 5 exact ⟨rfl, rfl⟩
    simp only [shiftedSpi_done]; exact ⟨rfl, rfl⟩
  · constructor <;> first | exact (setsOnly_iff _ _).2 (by decide) | decide | exact fun _ h => nomatch h
  · rintro (_ | _ | _ | _ | _ | n) _ <;> exact ⟨nofun, nofun⟩

theorem witness_UsartDivisorAndFrame :
    ∀ q ∈ [(0#32, 0x0000#32, (8, 1, 16)), (0x1000#32, 0x2000#32, (9, 2, 16)), (0x10008000#32, 0#32, (7, 1, 8))],
      let u := { Usart.reset with cr1 := q.1, cr2 := q.2.1 }
      (u.nData, u.nStop, u.nOs) = q.2.2 := by decide

theorem witness_UsartReads : UsartInv (withUsart usartReady).usart ∧ (withUsart usartReady).usart.isr.rxne = false :=
  ⟨usartReady_inv, rfl⟩

theorem witness_UsartCr1Write :
    ¬SetsOnly 0x2#32 [0, 2, 3, 12, 15, 28] ∧
    SetsOnly 0#32 [0, 2, 3, 12, 15, 28] ∧ SetsOnly 0x5#32 [0, 2, 3, 12, 15, 28] ∧
    SetsOnly 0x9#32 [0, 2, 3, 12, 15, 28] ∧ SetsOnly 0xD#32 [0, 2, 3, 12, 15, 28] ∧
    SetsOnly 0x800D#32 [0, 2, 3, 12, 15, 28] ∧ SetsOnly 0x10001000#32 [0, 2, 3, 12, 15, 28] ∧
    ((0x10001000#32).getLsbD 28 = true ∧ (0x10001000#32).getLsbD 12 = true) ∧
    -- a guarded bit changed while UE = 1
    (usartReady.cr1.getLsbD 0 = true ∧ (0x800D#32).getLsbD 0 = true ∧ (0x800D#32).getLsbD 15 ≠ usartReady.cr1.getLsbD 15) ∧
    -- UE set from 0: no divisor; the smallest divisor; BRR[3] with OVER8
    (State.reset.usart.cr1.getLsbD 0 = false ∧ State.reset.usart.brr.toNat < 16 ∧ (0x5#32).getLsbD 0 = true) ∧
    ((0x0010#16).toNat = 16 ∧ 16 * ((0x0018#16).toNat / 16) + 2 * ((0x0018#16).toNat % 8) = 16 ∧
      (0x0018#16).getLsbD 3 = true) ∧
    -- TE cleared inside a frame, and with nothing under way
    (usartRunning.cr1.getLsbD 3 = true ∧ usartRunning.isr.txe = false ∧ (0x5#32).getLsbD 3 = false) ∧
    (usartReady.cr1.getLsbD 3 = true ∧ usartReady.tx.state = .idle ∧ usartReady.isr.txe = true ∧
      (0#32).getLsbD 0 = false) ∧
    -- RE cleared, kept, set
    (usartReady.cr1.getLsbD 2 = true ∧ (0x9#32).getLsbD 2 = false ∧ (0xD#32).getLsbD 2 = true ∧
      (0x9#32).getLsbD 0 = true ∧ (0x9#32).getLsbD 3 = true ∧
      ∀ j ∈ [12, 15, 28], (0x9#32).getLsbD j = usartReady.cr1.getLsbD j) := by
  simp only [setsOnly_iff]; (repeat' apply And.intro) <;> decide +kernel

/-- The places of the default layout, and the values it makes of bus words. -/
def places (r : Reg) : List Nat := (Layout.default.of r).pos
def value (r : Reg) (raw : Word) : Word := fromBus .default r raw

/-- Under the default layout a bus word is the register's value, so the witnesses below name bits directly. -/
theorem default_places :
    (places .usartCr1 = [0, 2, 3, 12, 15, 28] ∧ places .i2cCr1 = [0] ∧
      places .i2cCr2 = bitsFrom 0 14 ++ bitsFrom 16 25 ∧ places .i2cTimingr = bitsFrom 0 23 ++ bitsFrom 28 31 ∧
      places .i2cIcr = [4, 5, 9] ∧ places .i2cTxdr = bitsFrom 0 7 ∧
      places .spiCr1 = bitsFrom 0 9 ++ [11, 12, 13] ∧ places .spiCr2 = bitsFrom 8 12) ∧
    ∀ q ∈ [(Reg.usartCr1, 0x800D#32), (.usartCr1, 0x10001000#32), (.i2cCr2, 0x320A0#32), (.i2cCr2, 0x260A0#32),
      (.i2cTimingr, 0xF0FFFFFF#32), (.spiCr1, 0x2355#32), (.spiCr1, 0x3314#32), (.spiCr2, 0x300#32)],
      value q.1 q.2 = q.2 := by decide +kernel

theorem witness_UsartOtherWrites :
    (¬SetsOnly 0x200#32 (places .usartTdr) ∧ SetsOnly 0x1FF#32 (places .usartTdr) ∧
      UsartCr1.ue State.reset.usart.cr1 = false ∧ UsartCr1.ue usartReady.cr1 = true) ∧
    (¬SetsOnly 0x4000#32 (places .usartCr2) ∧ SetsOnly 0x1000#32 (places .usartCr2) ∧
      (value .usartCr2 0x1000#32).getLsbD 12 = true ∧
      SetsOnly 0x802000#32 (places .usartCr2) ∧ (value .usartCr2 0x802000#32).getLsbD 12 = false ∧
      (value .usartCr2 0x802000#32).getLsbD 23 ≠ usartReady.cr2.getLsbD 23) ∧
    (¬SetsOnly 0x10000#32 (places .usartBrr) ∧ SetsOnly 0xFFFF#32 (places .usartBrr) ∧
      (value .usartBrr 0xFFFF#32).toNat ≠ usartReady.brr.toNat ∧
      (value .usartBrr 0x682#32).toNat = usartReady.brr.toNat) ∧
    (¬SetsOnly 0x1000000#32 (places .usartRtor) ∧ SetsOnly 0xFFFFFF#32 (places .usartRtor)) ∧
    ¬SetsOnly 0x20#32 (places .usartIcr) ∧ SetsOnly 0x85A#32 (places .usartIcr) := by
  simp only [setsOnly_iff]; (repeat' apply And.intro) <;> decide +kernel

theorem witness_UsartClockStep :
    (let u := { usartReady with brgAcc := 1665 - 16 }; UsartCr1.ue u.cr1 = true ∧ u.brgAcc + 16 < u.div) ∧
    (let u := { usartReady with brgAcc := 1666 - 16 }; UsartCr1.ue u.cr1 = true ∧ u.div ≤ u.brgAcc + 16) := by decide

theorem witness_SixteenTicksPerDivisor :
    UsartCr1.ue (withUsart usartReady).usart.cr1 = true ∧ UsartInv (withUsart usartReady).usart :=
  ⟨rfl, usartReady_inv⟩

theorem witness_UsartTransmitStep :
    (UsartCr1.ue 0x5#32 = true ∧ UsartCr1.te 0x5#32 = false ∧ UsartCr1.te usartReady.cr1 = true ∧
      usartReady.torn = false) ∧
    (usartReady.nOs = 16 ∧ usartReady.nData = 8 ∧ usartReady.nStop = 1) ∧
    -- the tick before the end of a bit time, and the last: osc 14, 15; bit 6, 7; stop 0; each state
    (14 + 1 < usartReady.nOs ∧ usartReady.nOs ≤ 15 + 1) ∧
    (6 + 1 < usartReady.nData ∧ usartReady.nData ≤ 7 + 1) ∧
    (let u := { usartReady with cr2 := 0x2000#32 }; 0 + 1 < u.nStop ∧ u.nStop ≤ 1 + 1) ∧
    (usartRunning.tx.state = .idle ∧ usartRunning.isr.txe = false) ∧
    (usartReady.isr.tc = true → usartReady.tx.state = .idle ∧ usartReady.isr.txe = true) := by decide

theorem witness_TransmitSendsTheFrame :
    let s := withUsart usartRunning
    UsartCr1.ue s.usart.cr1 = true ∧ UsartCr1.te s.usart.cr1 = true ∧ UsartInv s.usart ∧
      s.usart.torn = false ∧ s.usart.tx.state = .idle ∧ s.usart.isr.txe = false ∧ 9 < s.usart.nFrame ∧ 15 < s.usart.nOs ∧
      (List.replicate 175 true).length + s.usart.tx.osc = s.usart.nOs * (9 + 1) + 15 ∧
      (List.replicate 176 true).length + s.usart.tx.osc = s.usart.nOs * (s.usart.nFrame + 1) :=
  ⟨rfl, rfl, usartRunning_inv, by decide +kernel⟩

theorem witness_TransmitProgress :
    let s := withUsart usartRunning
    UsartCr1.ue s.usart.cr1 = true ∧ UsartCr1.te s.usart.cr1 = true ∧ UsartInv s.usart ∧ s.usart.torn = false ∧
      s.usart.isr.txe = false ∧ (List.replicate 176 true).length = (s.usart.nFrame + 1) * s.usart.nOs ∧
      (List.replicate 336 true).length = (2 * s.usart.nFrame + 1) * s.usart.nOs :=
  ⟨rfl, rfl, usartRunning_inv, rfl, rfl, by decide +kernel, by decide +kernel⟩

theorem witness_UsartReceiveStep :
    UsartCr1.ue usartReady.cr1 = true ∧ UsartCr1.re usartReady.cr1 = true ∧ UsartCr1.re 0x9#32 = false ∧
    -- an edge in RX_HUNT; the middle and the end of a bit; the last data bit; RXNE = 1 and 0 at the stop bit
    (usartReady.rx.state = .hunt ∧ usartReady.rx.prev = true) ∧
    (7 + 1 = usartReady.nOs / 2 ∧ 15 + 1 = usartReady.nOs ∧ 6 + 1 < usartReady.nData ∧
      usartReady.nData ≤ 7 + 1) ∧
    (let u := { usart 0xD#32 0xE0#32 with rx := { UsartRx.reset with state := .stop, osc := 7 } }
     u.rx.state = .stop ∧ u.rx.osc + 1 = u.nOs / 2 ∧ u.isr.rxne = true) ∧
    (let u := { usart 0xD#32 0xC0#32 with rx := { UsartRx.reset with state := .stop, osc := 7 } }
     u.rx.osc + 1 = u.nOs / 2 ∧ u.isr.rxne = false) := by decide

theorem witness_UsartDetectors :
    UsartCr1.ue usartReady.cr1 = true ∧ UsartCr1.re usartReady.cr1 = true ∧
    -- no edge in RX_HUNT, the last tick of the idle time and the one before it
    (usartReady.rx.state = .hunt ∧ usartReady.nFrame * usartReady.nOs = 160 ∧ 158 + 1 < 160 ∧ 160 ≤ 159 + 1) ∧
    -- a confirmed start bit; a completed frame; the timeout running at its last tick
    (let x := { usartRunning.rx with state := .start, osc := 7 }
     x.state = .start ∧ x.osc + 1 = usartReady.nOs / 2 ∧ x.rtoRun = true) ∧
    (let x := { UsartRx.reset with state := .stop, osc := 7 }
     x.state = .stop ∧ x.osc + 1 = usartReady.nOs / 2 ∧ x.rtoRun = false) ∧
    (let u := { usartRunning with rto := 20#24, rx := { usartRunning.rx with rtoCnt := 19, rtoOsc := 15 } }
     u.rx.rtoRun = true ∧ u.rx.state = .hunt ∧ u.nOs ≤ u.rx.rtoOsc + 1 ∧ u.rto.toNat ≤ u.rx.rtoCnt + 1) := by decide

theorem witness_UsartGapTimes :
    let s := withUsart usartRunning
    UsartCr1.ue s.usart.cr1 = true ∧ UsartCr1.re s.usart.cr1 = true ∧ s.usart.rx.state = .hunt ∧
      (s.usart.rx.idleArmed = true ∧ s.usart.rx.idleCnt = 0 ∧ s.usart.isr.idle = false) ∧
      (s.usart.rx.rtoRun = true ∧ s.usart.rx.rtoCnt = 0 ∧ s.usart.rx.rtoOsc = 0 ∧ s.usart.isr.rtof = false) := by
  decide

theorem witness_ReceiveDeliversTheFrame :
    let s := withUsart usartReady
    UsartCr1.ue s.usart.cr1 = true ∧ UsartCr1.re s.usart.cr1 = true ∧ UsartInv s.usart ∧
      s.usart.rx.state = .hunt ∧ s.usart.rx.prev = true ∧ s.usart.isr.rxne = false :=
  ⟨rfl, rfl, usartReady_inv, rfl, rfl, rfl⟩

theorem witness_I2cReads :
    State.reset.i2c.pe = false ∧ (withI2c i2cAddressing).i2c.pe = true ∧ State.reset.i2c.isr.rxne = false := by decide

theorem witness_I2cCr1Write :
    ¬SetsOnly 0x2#32 [0] ∧ SetsOnly 0x1#32 [0] ∧ (0x1#32).getLsbD 0 = true ∧ SetsOnly 0x0#32 [0] ∧
    (0x0#32).getLsbD 0 = false := by
  simp only [setsOnly_iff]; (repeat' apply And.intro) <;> decide +kernel

theorem witness_I2cCr2Write :
    let defined := bitsFrom 0 14 ++ bitsFrom 16 25
    ¬SetsOnly 0x8000#32 defined ∧ ¬SetsOnly 0x4000000#32 defined ∧
    SetsOnly 0x320A0#32 defined ∧ SetsOnly 0x260A0#32 defined ∧ SetsOnly 0x220A0#32 defined ∧
    -- a configuration bit changed while START = 1; START and STOP together; START kept alone; PE = 0
    (i2cAddressing.cr2.getLsbD 13 = true ∧ (0x320A0#32).getLsbD 16 ≠ i2cAddressing.cr2.getLsbD 16) ∧
    (i2cAddressing.pe = true ∧ (∀ j ∈ bitsFrom 0 12 ++ bitsFrom 16 25,
      (0x260A0#32).getLsbD j = i2cAddressing.cr2.getLsbD j) ∧ (0x260A0#32).getLsbD 14 = true) ∧
    ((∀ j ∈ bitsFrom 0 12 ++ bitsFrom 16 25, (0x220A0#32).getLsbD j = i2cAddressing.cr2.getLsbD j) ∧
      (0x220A0#32).getLsbD 14 = false ∧ i2cAddressing.cr2.getLsbD 14 = false) ∧
    State.reset.i2c.pe = false := by
  simp only [setsOnly_iff]; (repeat' apply And.intro) <;> decide +kernel

theorem witness_I2cOtherWrites :
    (¬SetsOnly 0x01000000#32 (bitsFrom 0 23 ++ bitsFrom 28 31) ∧
      SetsOnly 0xF0FFFFFF#32 (bitsFrom 0 23 ++ bitsFrom 28 31) ∧ i2cAddressing.pe = true ∧
      0xF0FFFFFF#32 ≠ i2cAddressing.timingr ∧ SetsOnly i2cAddressing.timingr (bitsFrom 0 23 ++ bitsFrom 28 31)) ∧
    (¬SetsOnly 0x40#32 [4, 5, 9] ∧ SetsOnly 0x230#32 [4, 5, 9]) ∧
    (¬SetsOnly 0x100#32 (bitsFrom 0 7) ∧ SetsOnly 0xFF#32 (bitsFrom 0 7) ∧ State.reset.i2c.pe = false) := by
  simp only [setsOnly_iff]; (repeat' apply And.intro) <;> decide +kernel

theorem witness_I2cAddressBytes :
    (withI2c i2cAddressing).i2c.phase = .addr ∧
    [0x000000A0#32, 0x000004A0#32, 0x00000A50#32, 0x00000E50#32, 0x00001E50#32].map (fun v : Word =>
      (v.getLsbD 11, v.getLsbD 10, v.getLsbD 12)) =
      [(false, false, false), (false, true, false), (true, false, false), (true, true, false), (true, true, true)] := by
  decide

theorem witness_I2cLineProtocol :
    BusAct.sent 0xA0#8 ∉ [BusAct.start, .repeatedStart, .stop] ∧
    (let i := i2c .txWait 0x200A0#32 0x8000#32 2; i.phase = .txWait ∧ i.isr.txe = false) ∧
    (let i := i2c .rxByte 0x204A0#32 0x8001#32 2; i.phase = .rxByte ∧ i.isr.rxne = false) ∧
    (i2cAddressing.phase = .addr ∧ i2cAddressing.cr2.getLsbD 11 = false) := by decide

theorem witness_I2cStartStep :
    (let i := i2c .idle 0x220A0#32 1#32 0
     i.pe = true ∧ i.cr2.getLsbD 13 = true ∧ i.phase = .idle ∧ i.isr.busy = false ∧ i.cr2.getLsbD 24 = false ∧
      i.cr2.getLsbD 25 = false) ∧
    (let i := i2c .tc 0x220A0#32 0x8001#32 0; i.pe = true ∧ i.cr2.getLsbD 13 = true ∧ i.phase = .tc) ∧
    (let i := i2c .idle 0x10220A0#32 1#32 0
     i.pe = true ∧ i.cr2.getLsbD 13 = true ∧ i.phase = .idle ∧ i.isr.busy = false ∧ i.cr2.getLsbD 24 = true) ∧
    (let i := i2c .idle 0x20220A0#32 1#32 0; i.cr2.getLsbD 13 = true ∧ i.cr2.getLsbD 25 = true) := by decide

theorem witness_I2cAddressStep :
    (i2c .lost 0x200A0#32 0x8201#32 0).phase = .lost ∧
    (i2cAddressing.phase = .addr ∧ 0 < i2cAddressing.remaining ∧ i2cAddressing.cr2.getLsbD 10 = false) ∧
    (let i := i2c .addr 0x224A0#32 0x8001#32 1; i.phase = .addr ∧ 0 < i.remaining ∧ i.cr2.getLsbD 10 = true) ∧
    (let i := i2c .addr 0x020A0#32 0x8001#32 0; i.phase = .addr ∧ i.remaining = 0) := by decide

theorem witness_I2cTxByteStep :
    (let i := i2c .txWait 0x200A0#32 0x8000#32 2; i.phase = .txWait ∧ i.isr.txe = false ∧ 1 < i.remaining) ∧
    (let i := i2c .txWait 0x200A0#32 0x8000#32 1; i.phase = .txWait ∧ i.isr.txe = false ∧ i.remaining = 1) := by
  decide

theorem witness_I2cRxByteAndStopSteps :
    (let i := i2c .rxByte 0x204A0#32 0x8001#32 2; i.phase = .rxByte ∧ i.isr.rxne = false ∧ 1 < i.remaining) ∧
    (let i := i2c .rxByte 0x204A0#32 0x8001#32 1; i.phase = .rxByte ∧ i.isr.rxne = false ∧ i.remaining = 1) ∧
    ∀ p ∈ [Phase.tc, .txWait, .rxByte],
      let i := i2c p 0x240A0#32 0x8001#32 1
      i.pe = true ∧ i.cr2.getLsbD 14 = true ∧ (i.phase = .tc ∨ i.phase = .txWait ∨ i.phase = .rxByte) := by decide

theorem witness_ReadModifyWriteReissuesStart :
    let s := withI2c i2cAddressing
    ParamsValid s.params ∧ I2cInv s.i2c ∧ s.i2c.pe = true ∧ s.i2c.phase = .addr :=
  ⟨default_valid, i2cAddressing_inv, rfl, rfl⟩

theorem witness_SpiReads : (0x1700#32).getLsbD 12 = true ∧ Spi.reset.cr2.getLsbD 12 = false := by decide

theorem witness_SpiDrAccesses :
    ((0xF00#32).extractLsb' 8 4).toNat = 15 ∧ ((0x800#32).extractLsb' 8 4).toNat = 8 ∧
    ((0x700#32).extractLsb' 8 4).toNat < 8 ∧
    4 ≤ [1#8, 2#8, 3#8, 4#8].length ∧ [1#8, 2#8, 3#8].length < 4 ∧ 3 ≤ [1#8, 2#8, 3#8].length ∧
    [1#8, 2#8].length ≤ 2 ∧ Spi.reset.rxf = [] ∧
    (spi 0#32 0x700#32 [] [1#8]).rxf = 1#8 :: [] ∧ (spi 0#32 0x700#32 [] [1#8]).rxf.length < 2 ∧
    (spi 0#32 0x700#32 [] [1#8, 2#8]).rxf = 1#8 :: 2#8 :: [] := by decide

theorem witness_SpiControlWrites :
    (let defined := bitsFrom 0 9 ++ [11, 12, 13]
     ¬SetsOnly 0x400#32 defined ∧ ¬SetsOnly 0x4000#32 defined ∧ SetsOnly 0x3314#32 defined ∧
      SetsOnly 0x40#32 defined ∧ SetsOnly 0x2355#32 defined ∧ SetsOnly 0x2314#32 defined ∧
      SetsOnly 0x2354#32 defined) ∧
    ((0x3314#32).getLsbD 12 = true ∧ (0x40#32).getLsbD 6 = true ∧ (0x40#32).getLsbD 2 = false) ∧
    ((0x2355#32).getLsbD 6 = true ∧ (0x2355#32).getLsbD 2 = true ∧ spiReady.cr1.getLsbD 6 = true ∧
      (0x2355#32).getLsbD 0 ≠ spiReady.cr1.getLsbD 0) ∧
    ((0x2314#32).getLsbD 6 = false ∧ (0x2314#32).getLsbD 12 = false ∧ spiReady.txf ≠ []) ∧
    (let p := spi 0x2354#32 0x1700#32 [] []
     (0x2314#32).getLsbD 6 = false ∧ p.cr1.getLsbD 6 = true ∧ p.sh.busy = false ∧ p.txf = []) ∧
    ((0x2354#32).getLsbD 6 = true ∧ (0x2354#32).getLsbD 2 = true ∧ spiReady.cr1 = 0x2354#32 ∧
      Spi.reset.cr1.getLsbD 6 = false) ∧
    -- CR2: a width below 4 bits is 8; the width and FRXTH changed; a FIFO that holds data
    (¬SetsOnly 0x2000#32 (bitsFrom 8 12) ∧ SetsOnly 0x100#32 (bitsFrom 8 12) ∧
      SetsOnly 0x200#32 (bitsFrom 8 12) ∧ SetsOnly 0x300#32 (bitsFrom 8 12) ∧
      ((0x200#32).extractLsb' 8 4).toNat < 3 ∧ ¬((0x300#32).extractLsb' 8 4).toNat < 3) ∧
    ((0x300#32).getLsbD 12 ≠ spiReady.cr2.getLsbD 12 ∧ (spi 0x2314#32 0x1700#32 [] [1#8]).rxf ≠ [] ∧
      (spi 0x2314#32 0x1700#32 [] [1#8]).cr1.getLsbD 6 = false) := by
  simp only [setsOnly_iff]; (repeat' apply And.intro) <;> decide +kernel

theorem witness_SpiShiftSteps :
    (spiReady.cr1.getLsbD 6 = true ∧ spiReady.cr1.getLsbD 2 = true ∧ spiReady.sh.busy = false ∧
      spiReady.txf = 0x9F#8 :: [] ∧ (spiReady.cr2.extractLsb' 8 4).toNat + 1 ≤ 8 ∧
      (0x9F#16).toNat = (0x9F#8).toNat % 2 ^ 8) ∧
    (let p := spi 0x2354#32 0xB00#32 [0xEF#8, 0xBE#8] []
     p.txf = 0xEF#8 :: 0xBE#8 :: [] ∧ (p.cr2.extractLsb' 8 4).toNat + 1 = 12 ∧ 8 < 12 ∧
      (0xEEF#16).toNat = (256 * (0xBE#8).toNat + (0xEF#8).toNat) % 2 ^ 12) ∧
    -- a bit in the middle of the frame, and the last one
    (6 + 1 < (spiReady.cr2.extractLsb' 8 4).toNat + 1 ∧ 7 + 1 = (spiReady.cr2.extractLsb' 8 4).toNat + 1) ∧
    (∀ j < 16, (0x80#16).getLsbD j = if j = 8 - 1 - 0 then true else (0#16).getLsbD j) ∧
    -- the mode fault: SSI low; SSI high; the pin
    ((0x2254#32).getLsbD 6 = true ∧ (0x2254#32).getLsbD 2 = true ∧ (0x2254#32).getLsbD 9 = true ∧
      (0x2254#32).getLsbD 8 = false) ∧
    (spiReady.cr1.getLsbD 9 = true ∧ spiReady.cr1.getLsbD 8 = true) ∧
    ((0x54#32).getLsbD 6 = true ∧ (0x54#32).getLsbD 2 = true ∧ (0x54#32).getLsbD 9 = false) := by decide

theorem witness_SpiFrameExchange :
    let s := withSpi spiReady
    SpiInv s.spi ∧ s.spi.loadEnabled = true ∧ (List.replicate 8 true).length = s.spi.frameBits ∧
      s.spi.rxf.length + s.spi.frameBytes ≤ 4 ∧
      4 < (spi 0x2354#32 0x1700#32 [0x9F#8] [1#8, 2#8, 3#8, 4#8]).rxf.length + s.spi.frameBytes :=
  ⟨spiReady_inv, by decide⟩

theorem witness_SpiClockEdges :
    let s := withSpi spiReady
    SpiInv s.spi ∧ s.spi.loadEnabled = true ∧ (List.replicate 8 true).length = s.spi.frameBits ∧ 7 < s.spi.frameBits :=
  ⟨spiReady_inv, by decide⟩

theorem witness_SpiClearingSequences :
    (∃ t, exec .rd8SpiDr (withSpi { spi 0x2354#32 0x1700#32 [] [1#8] with ovr := true }) = .next t) ∧
    (∃ t, exec .rdSpiSr (withSpi { spi 0x2354#32 0x1700#32 [] [] with
      ovr := true, ovrSeq := true, modf := true }) = .next t) ∧
    (∃ t, exec (.wrSpiCr1 0x2310#32) (withSpi { spi 0x2310#32 0x1700#32 [] [] with
      modf := true, modfSeq := true }) = .next t) :=
  ⟨⟨_, rfl⟩, ⟨_, rfl⟩, ⟨_, rfl⟩⟩

theorem witness_NvicAccesses :
    State.reset.params.nIser ≤ (15#4).toNat ∧ (14#4).toNat < State.reset.params.nIser ∧
    State.reset.params.nLines ≤ (480#9).toNat ∧ (479#9).toNat < State.reset.params.nLines ∧
    NvicInv State.reset.params State.reset.nvic :=
  ⟨by decide, by decide, by decide, by decide, nvicReset_inv _⟩

theorem witness_NvicPendEvent :
    (479#9).toNat < State.reset.params.nLines ∧ State.reset.params.nLines ≤ (480#9).toNat := by decide

/-- Lines 0 and 479 pending and enabled, with equal priority bytes. -/
theorem witness_NvicOutputs :
    let v := (((Nvic.reset.setPending 0 true).setPending 479 true).setEnables 0 0x1#32).setEnables 14 0x80000000#32
    (∀ n ∈ [(0 : Fin 512), 479], n.val < Params.default.nLines ∧
      v.pend[n] = true ∧ (v.iser[n.val / 32]?.getD 0#32).getLsbD (n.val % 32) = true) ∧
    ∀ m : Fin 512, v.ipr[(0 : Fin 512)] = v.ipr[m] ∧ 0 ≤ m := by
  refine ⟨by decide +kernel, fun m => ⟨?_, Fin.zero_le m⟩⟩
  simp [Nvic.setEnables, Nvic.setPending, Nvic.reset]

theorem witness_NvicDriverReachesTheLine :
    (14 : Fin 16).val = (479 : Fin 512).val / 32 ∧ ParamsValid State.reset.params ∧
    State.reset.params.nLines ≤ 480 ∧ 479 < State.reset.params.nLines :=
  ⟨by decide, default_valid, by decide, by decide⟩

/-- `clear_bits` on USART.CR1 with steps of the SPI shifter before each of its two operations; and addresses at
which the read is refused, and the write alone. -/
theorem witness_AccessPrimitives :
    let s := { withUsart usartReady with spi := spiReady }
    accessAt .default someBases false .w32 0x40011000#32 0#32 = .ok .rdUsartCr1 ∧
    (∃ s1 s2 s3 t, runOps [.evSpiLoad] s = .next s1 ∧ exec .rdUsartCr1 s1 = .next s2 ∧
      accessAt .default someBases true .w32 0x40011000#32 (s2.rdata &&& ~~~0x4#32) = .ok (.wrUsartCr1 0x9#32) ∧
      runOps [.evSpiBit true] s2 = .next s3 ∧ exec (.wrUsartCr1 0x9#32) s3 = .next t) ∧
    accessAt .default someBases false .w32 0x4001300C#32 0#32 = .error .width ∧
    accessAt .default someBases false .w32 0x4001101C#32 0#32 = .ok .rdUsartIsr ∧
    accessAt .default someBases true .w32 0x4001101C#32 0xD#32 = .error .writeToReadOnly :=
  ⟨by decide, ⟨_, _, _, _, rfl, rfl, by decide, rfl, rfl⟩, by decide, by decide, by decide⟩

/-- Its fields: one that ends at bit 31, one past it; a poll that ends and one that does not. -/
theorem witness_AccessPrimitives_bounds :
    31 + maskWidth 0x1#32 ≤ 32 ∧ ¬32 + maskWidth 0x1#32 ≤ 32 ∧ 0 + maskWidth 0xFFFFFFFF#32 ≤ 32 ∧
    0xD#32 &&& 0x1#32 = 0x1#32 ∧ 0xD#32 &&& 0x1#32 ≠ 0#32 := by decide

end Sys2Proof.Tests
end

section
/-! PROOF. Which window an address is decoded to (20_memory.md R71). -/

namespace Sys2Proof

/-- The address lies in the window of `b`, for given base addresses (R71). -/
def InWindow (p : Params) (base : Blk → Word) (b : Blk) (addr : Word) : Prop :=
  (base b).toNat ≤ addr.toNat ∧ addr.toNat < (base b).toNat + b.size p

variable {p : Params} {base : Blk → Word} {addr : Word} {b c : Blk}

/-- `windowOf` tries every block. -/
theorem Blk.mem_windows (b : Blk) : b ∈ [Blk.usart, .i2c, .spi, .nvicIser, .nvicIpr] := by
  cases b <;> decide

theorem windowOf_eq_none_iff : windowOf p base addr = none ↔ ∀ b, ¬InWindow p base b addr := by
  unfold windowOf
  rw [List.findSome?_eq_none_iff]
  constructor
  · intro h b ⟨hlow, hhigh⟩
    have hnone := h b b.mem_windows
    rw [if_pos ⟨hlow, hhigh⟩] at hnone
    exact Option.some_ne_none _ hnone
  · exact fun h b _ => if_neg (h b)

theorem inWindow_of_windowOf_eq_some {off : BitVec 12} (h : windowOf p base addr = some (b, off)) :
    InWindow p base b addr ∧ off = (addr - base b).setWidth 12 := by
  obtain ⟨c, -, hc⟩ := List.exists_of_findSome?_eq_some h
  split at hc
  case isTrue hin =>
    obtain ⟨rfl, rfl⟩ := Prod.mk.inj (Option.some.inj hc)
    exact ⟨hin, rfl⟩
  case isFalse => exact nomatch hc

/-- Where no second window holds the address, the order in which the windows are tried does not matter. -/
theorem windowOf_eq_some_of_unique (hin : InWindow p base b addr)
    (unique : ∀ c, InWindow p base c addr → c = b) :
    windowOf p base addr = some (b, (addr - base b).setWidth 12) := by
  cases h : windowOf p base addr with
  | none => exact absurd hin (windowOf_eq_none_iff.1 h b)
  | some found =>
    obtain ⟨hfound, hoff⟩ := inWindow_of_windowOf_eq_some (b := found.1) (off := found.2) h
    rw [← unique found.1 hfound, ← hoff]

theorem inWindow_base_add {off : BitVec 12} (hoff : off.toNat < b.size p)
    (top : (base b).toNat + b.size p ≤ 2 ^ 32) : InWindow p base b (base b + off.setWidth 32) := by
  have haddr : (base b + off.setWidth 32).toNat = (base b).toNat + off.toNat := by
    rw [BitVec.toNat_add_of_lt] <;> rw [BitVec.toNat_setWidth_of_le (by decide)]
    omega
  constructor <;> omega

theorem InWindow.block_unique
    (disjoint : ∀ b c, b ≠ c →
      (base b).toNat + b.size p ≤ (base c).toNat ∨ (base c).toNat + c.size p ≤ (base b).toNat)
    (hc : InWindow p base c addr) (hb : InWindow p base b addr) : c = b := by
  obtain ⟨hcLow, hcHigh⟩ := hc
  obtain ⟨hbLow, hbHigh⟩ := hb
  by_contra hne
  have := disjoint c b hne
  omega

theorem base_add_sub_base (a : Word) (off : BitVec 12) : (a + off.setWidth 32 - a).setWidth 12 = off := by
  rw [BitVec.add_comm, BitVec.add_sub_cancel, BitVec.setWidth_setWidth_of_le _ (by decide), BitVec.setWidth_eq]

theorem commandAt_of_windowOf_eq_none (h : windowOf p base addr = none) (we : Bool) (sz : Width) :
    commandAt p base we sz addr = .error .outsideBlock := by
  unfold commandAt
  rw [h]

/-- Settles O7: an address of a window is in no other window, since the windows are apart, and its
distance from the base is the offset, since no window passes the top of the address space. -/
theorem addressesReachTheirWindow : Obligations.AddressesReachTheirWindow := by
  unfold Obligations.AddressesReachTheirWindow
  refine fun p => ⟨rfl, fun base top disjoint => ⟨fun b off hoff => ?_, fun addr outside => ?_⟩⟩
  · have hin : InWindow p base b (base b + off.setWidth 32) := inWindow_base_add hoff (top b)
    rw [windowOf_eq_some_of_unique hin fun c hc => hc.block_unique disjoint hin, base_add_sub_base]
  · have hnone : windowOf p base addr = none := windowOf_eq_none_iff.2 outside
    exact ⟨hnone, commandAt_of_windowOf_eq_none hnone⟩

end Sys2Proof
end

section
/-! PROOF. The fields of a command word, and which command words a row covers (30_encoding.md R100, R104,
R105). -/

namespace Sys2Proof

variable {cmd : Word} {row a b : BusRow} {l : Layout}

/-! ### The fields of an assembled command word (R100) -/

@[simp] theorem cmdWe_command (we : Bool) (sz : Width) (blk : Blk) (off : BitVec 12) :
    cmdWe (command we sz blk off) = we := by
  cases we
  · exact Laws.EncodedLength.readPacket_length sz blk off
  · exact Laws.EncodedLength.writePacket_length sz blk off

@[simp] theorem cmdSz_command (we : Bool) (sz : Width) (blk : Blk) (off : BitVec 12) :
    cmdSz (command we sz blk off) = sz.code := by
  unfold cmdSz command
  simp only [BitVec.extractLsb'_append_eq_of_le, BitVec.extractLsb'_append_eq_right, Nat.reduceLeDiff,
    Nat.reduceSub]

@[simp] theorem cmdBlk_command (we : Bool) (sz : Width) (blk : Blk) (off : BitVec 12) :
    cmdBlk (command we sz blk off) = blk.code := by
  unfold cmdBlk command
  simp only [BitVec.extractLsb'_append_eq_of_le, BitVec.extractLsb'_append_eq_right, Nat.le_refl, Nat.sub_self]

@[simp] theorem cmdOff_command (we : Bool) (sz : Width) (blk : Blk) (off : BitVec 12) :
    cmdOff (command we sz blk off) = off :=
  BitVec.extractLsb'_append_eq_right

theorem cmdBlk_and (v w : Word) : cmdBlk (v &&& w) = cmdBlk v &&& cmdBlk w := BitVec.extractLsb'_and

theorem Blk.code_injective : Function.Injective Blk.code := by
  intro b c; cases b <;> cases c <;> decide

theorem Width.code_injective : Function.Injective Width.code := by
  intro v w; cases v <;> cases w <;> decide

/-! ### An access to a register: its direction, its width and the register -/

/-- The command word of an access to a register under a layout (R101). -/
def registerCommand (l : Layout) (access : Bool × Width × Reg) : Word :=
  command access.1 access.2.1 access.2.2.blk (l.of access.2.2).off

theorem registerCommand_injective (hl : Machine.LayoutValid l) : Function.Injective (registerCommand l) := by
  rintro ⟨we, sz, r⟩ ⟨we', sz', r'⟩ h
  have hwe : we = we' := by simpa [registerCommand] using congrArg cmdWe h
  have hsz : sz.code = sz'.code := by simpa [registerCommand] using congrArg cmdSz h
  have hblk : r.blk.code = r'.blk.code := by simpa [registerCommand] using congrArg cmdBlk h
  have hoff : (l.of r).off = (l.of r').off := by simpa [registerCommand] using congrArg cmdOff h
  rw [hwe, Width.code_injective hsz, hl.apart r r' (Blk.code_injective hblk) hoff]

/-! ### The rows of the registers and the rows of the NVIC (R104) -/

/-- The rows a layout places: those of the three peripherals, one command word each. -/
def registerRows (l : Layout) : List BusRow := usartRows l ++ i2cRows l ++ spiRows l

theorem busRows_eq (l : Layout) : busRows l = registerRows l ++ nvicRows := rfl

/-- A read and, where the register can be written, a write. -/
def wordAccesses (r : Reg) : List (Bool × Width × Reg) :=
  (false, .w32, r) :: if r.readOnly then [] else [(true, .w32, r)]

/-- What the register rows access, in their order. -/
def registerAccesses : List (Bool × Width × Reg) :=
  (Reg.all.filter (· ≠ .spiDr)).flatMap wordAccesses ++
    [(false, .w8, .spiDr), (false, .w16, .spiDr), (true, .w8, .spiDr), (true, .w16, .spiDr)]

theorem registerRows_pattern (l : Layout) :
    (registerRows l).map BusRow.pattern = registerAccesses.map (registerCommand l) := rfl

theorem registerAccesses_nodup : registerAccesses.Nodup := by decide

theorem registerRows_mask (l : Layout) : ∀ row ∈ registerRows l, row.mask = BitVec.allOnes 32 := by
  simp [registerRows, usartRows, i2cRows, spiRows, BusRow.read, BusRow.write]

theorem eq_pattern_of_registerRow (hrow : row ∈ registerRows l) (h : row.covers cmd = true) : cmd = row.pattern := by
  rw [BusRow.covers, registerRows_mask l row hrow, BitVec.and_allOnes] at h
  exact eq_of_beq h

theorem cmdBlk_of_registerRow (hrow : row ∈ registerRows l) (h : row.covers cmd = true) :
    ∃ r : Reg, cmdBlk cmd = r.blk.code := by
  have hpattern : row.pattern ∈ registerAccesses.map (registerCommand l) :=
    registerRows_pattern l ▸ List.mem_map_of_mem hrow
  obtain ⟨⟨we, sz, r⟩, -, hr⟩ := List.mem_map.1 hpattern
  exact ⟨r, by rw [eq_pattern_of_registerRow hrow h, ← hr, registerCommand, cmdBlk_command]⟩

theorem nvicRows_blk : ∀ row ∈ nvicRows, cmdBlk row.mask = BitVec.allOnes 4 ∧
    (cmdBlk row.pattern = Blk.nvicIser.code ∨ cmdBlk row.pattern = Blk.nvicIpr.code) := by decide

theorem cmdBlk_of_nvicRow (hrow : row ∈ nvicRows) (h : row.covers cmd = true) :
    cmdBlk cmd = Blk.nvicIser.code ∨ cmdBlk cmd = Blk.nvicIpr.code := by
  obtain ⟨hmask, hpattern⟩ := nvicRows_blk row hrow
  have hblk : cmdBlk cmd = cmdBlk row.pattern := by
    rw [← eq_of_beq h, cmdBlk_and, hmask, BitVec.and_allOnes]
  rwa [hblk]

theorem Reg.blk_code_ne_nvic (r : Reg) : r.blk.code ≠ Blk.nvicIser.code ∧ r.blk.code ≠ Blk.nvicIpr.code := by
  cases r <;> decide

/-! ### No two rows cover one command word (R105) -/

/-- No command word is covered by both rows (R105). -/
def BusRow.Disjoint (a b : BusRow) : Prop := ∀ cmd, ¬(a.covers cmd = true ∧ b.covers cmd = true)

/-- Two patterns that differ on a bit both masks fix cannot both be met. -/
theorem BusRow.disjoint_of_patterns (h : a.pattern &&& b.mask ≠ b.pattern &&& a.mask) : a.Disjoint b := by
  rintro cmd ⟨ha, hb⟩
  rw [← eq_of_beq ha, ← eq_of_beq hb] at h
  exact h (by ac_rfl)

theorem registerRows_disjoint (hl : Machine.LayoutValid l) : (registerRows l).Pairwise BusRow.Disjoint := by
  have hne : ((registerRows l).map BusRow.pattern).Nodup := by
    rw [registerRows_pattern]
    exact registerAccesses_nodup.map (registerCommand_injective hl)
  refine (List.pairwise_map.1 hne).imp_of_mem fun ha hb hab cmd ⟨hcmdA, hcmdB⟩ => hab ?_
  rw [← eq_pattern_of_registerRow ha hcmdA, ← eq_pattern_of_registerRow hb hcmdB]

theorem nvicRows_disjoint : nvicRows.Pairwise BusRow.Disjoint := by
  have hpatterns : nvicRows.Pairwise fun a b => a.pattern &&& b.mask ≠ b.pattern &&& a.mask := by decide
  exact hpatterns.imp BusRow.disjoint_of_patterns

theorem registerRow_disjoint_nvicRow (ha : a ∈ registerRows l) (hb : b ∈ nvicRows) : a.Disjoint b := by
  rintro cmd ⟨hcovers, hnvic⟩
  obtain ⟨r, hr⟩ := cmdBlk_of_registerRow ha hcovers
  obtain ⟨hiser, hipr⟩ := r.blk_code_ne_nvic
  rw [← hr] at hiser hipr
  exact (cmdBlk_of_nvicRow hb hnvic).elim hiser hipr

theorem busRows_disjoint (hl : Machine.LayoutValid l) : (busRows l).Pairwise BusRow.Disjoint := by
  rw [busRows_eq, List.pairwise_append]
  exact ⟨registerRows_disjoint hl, nvicRows_disjoint, fun _ ha _ hb => registerRow_disjoint_nvicRow ha hb⟩

/-- So the search for a row finds the one that covers the command word, wherever it stands in the table. -/
theorem busRows_find?_of_covers (hl : Machine.LayoutValid l) (hrow : row ∈ busRows l)
    (h : row.covers cmd = true) : (busRows l).find? (fun row => row.covers cmd) = some row := by
  cases hfound : (busRows l).find? (fun row => row.covers cmd) with
  | none => exact absurd h (List.find?_eq_none.1 hfound row hrow)
  | some other =>
    have symm : Std.Symm BusRow.Disjoint := ⟨fun _ _ hab cmd hc => hab cmd hc.symm⟩
    have hother : other.covers cmd = true := List.find?_some (p := fun row : BusRow => row.covers cmd) hfound
    by_contra hne
    exact (busRows_disjoint hl).forall (List.mem_of_find?_eq_some hfound) hrow
      (fun heq => hne (congrArg some heq)) cmd ⟨hother, h⟩

/-! ### The steps of the decoding algorithm (R105) -/

section Decode

variable {p : Params} {rest : List Word}

/-- Step (1) lets the command word through. -/
def CommandForm (cmd : Word) : Prop := cmdZero cmd = 0#13 ∧ cmdSz cmd ≠ 0b11#2

theorem decodeBus_of_reserved (h : cmdZero cmd ≠ 0#13 ∨ cmdSz cmd = 0b11#2) :
    decodeBus p (cmd :: rest) = .error .badCommand := if_pos h

theorem decodeBus_of_uncovered (hform : CommandForm cmd) (h : ∀ row ∈ busRows p.layout, row.covers cmd = false) :
    decodeBus p (cmd :: rest) = .error (classify p cmd) := by
  obtain ⟨hzero, hsz⟩ := hform
  have hnone : (busRows p.layout).find? (fun row => row.covers cmd) = none :=
    List.find?_eq_none.2 fun row hrow => by simp [h row hrow]
  simp [decodeBus, hzero, hsz, hnone]

theorem decodeBus_of_covered (hl : Machine.LayoutValid p.layout) (hform : CommandForm cmd)
    (hrow : row ∈ busRows p.layout) (h : row.covers cmd = true) :
    decodeBus p (cmd :: rest) =
      if (row.build cmd 0#32).wf p = false then .error .indexOutOfRange
      else if cmdWe cmd then decodeData row cmd rest
      else .ok (row.build cmd 0#32, rest) := by
  obtain ⟨hzero, hsz⟩ := hform
  simp [decodeBus, hzero, hsz, busRows_find?_of_covers hl hrow h]

theorem decodeData_of_lt {wdata : Word} (h : wdata.toNat < 2 ^ (8 * szBytes (cmdSz cmd))) :
    decodeData row cmd (wdata :: rest) = .ok (row.build cmd wdata, rest) := if_pos (decide_eq_true h)

theorem decodeData_of_le {wdata : Word} (h : 2 ^ (8 * szBytes (cmdSz cmd)) ≤ wdata.toNat) :
    decodeData row cmd (wdata :: rest) = .error .badCommand :=
  if_neg (by simpa [dataFits] using h)

end Decode

/-- Settles O3: a valid layout gives every register access a command word of its own, so at most one row
covers a command word and the search for a row comes to that one; the steps of R105 then follow in order. -/
theorem decodeFollowsTheRowTable : Obligations.DecodeFollowsTheRowTable := by
  unfold Obligations.DecodeFollowsTheRowTable
  refine fun p hp => ⟨busRows_disjoint hp.layout, fun cmd rest =>
    ⟨decodeBus_of_reserved, fun hzero hsz => ⟨decodeBus_of_uncovered ⟨hzero, hsz⟩, fun row hrow hcovers => ?_⟩⟩⟩
  have hdecode (rest) := decodeBus_of_covered (rest := rest) hp.layout ⟨hzero, hsz⟩ hrow hcovers
  refine ⟨fun hwf => ?_, fun hwf (hread : cmdWe cmd = false) => ?_, fun hwf (hwrite : cmdWe cmd = true) wdata =>
    ⟨fun hfits => ?_, fun hwide => ?_⟩⟩
  · simp only [hdecode, hwf, if_true]
  · simp [hdecode, hwf, hread]
  · simp [hdecode, hwf, hwrite, decodeData_of_lt (cmd := cmd) hfits]
  · simp [hdecode, hwf, hwrite, decodeData_of_le (cmd := cmd) hwide]

end Sys2Proof
end

section
/-! PROOF. The two halves of a USART tick (41_usart.md R169): neither sees what the other changes; and what a tick
does to the transmitter (R155 to R160). -/

namespace Sys2Proof.Machine

theorem exec_evUsartTick {s : State} (hue : UsartCr1.ue s.usart.cr1 = true) (p : Bool) :
    exec (.evUsartTick p) s = .next { s with usart := s.usart.tick p } :=
  whenEnabled_yes hue s _

namespace Usart

variable {u r : Usart} {p : Bool}

/-! ### The receiver's half -/

/-- The receiver's half of a tick: RXSTEP when RE = 1, nothing otherwise (R166, R169). -/
def rxHalf (u : Usart) (p : Bool) : Usart := if UsartCr1.re u.cr1 then u.rxStep p else u

theorem rxHalf_on (h : UsartCr1.re u.cr1 = true) : u.rxHalf p = u.rxStep p := if_pos h

theorem rxHalf_off (h : UsartCr1.re u.cr1 = false) : u.rxHalf p = u := if_neg (by simp [h])

theorem rxHalf_frame (u : Usart) (p : Bool) : SameOutsideRx u (u.rxHalf p) := by
  unfold rxHalf
  split
  · exact rxStep_frame u p
  · rfl

/-! ### The transmitter's half -/

/-- The transmitter's half of a tick, after the receiver's half gave `r` (R155, R160; log entry 14). -/
def txHalf (r : Usart) : Usart :=
  if r.torn then r.tear else if UsartCr1.te r.cr1 then r.txStep else r.txOff

theorem tick_eq (u : Usart) (p : Bool) : u.tick p = (u.rxHalf p).txHalf := rfl

theorem txHalf_on (htorn : u.torn = false) (hte : UsartCr1.te u.cr1 = true) : u.txHalf = u.txStep := by
  simp [txHalf, htorn, hte]

theorem txHalf_off (htorn : u.torn = false) (hte : UsartCr1.te u.cr1 = false) : u.txHalf = u.txOff := by
  simp [txHalf, htorn, hte]

/-- What the transmitter has: its hidden state, its pin and its two flags. -/
def TxIs (u : Usart) (x : UsartTx) (pin txe tc : Bool) : Prop :=
  u.tx = x ∧ u.txPin = pin ∧ u.isr.txe = txe ∧ u.isr.tc = tc

/-- `u` with the receiver of `r`: its hidden state, its data register and its flags. -/
def withRxOf (u r : Usart) : Usart :=
  { u with rx := r.rx, rdr := r.rdr, isr := { r.isr with txe := u.isr.txe, tc := u.isr.tc } }

theorem txIdle_withRxOf : (u.withRxOf r).txIdle = u.txIdle.withRxOf r := by
  unfold txIdle
  rw [apply_ite (withRxOf · r)]
  rfl

theorem txData_withRxOf : (u.withRxOf r).txData = u.txData.withRxOf r := by
  unfold txData
  rw [apply_ite (withRxOf · r)]
  rfl

theorem txStop_withRxOf : (u.withRxOf r).txStop = u.txStop.withRxOf r := by
  unfold txStop
  rw [apply_ite (withRxOf · r), apply_ite (withRxOf · r)]
  rfl

theorem txBoundary_withRxOf : (u.withRxOf r).txBoundary = u.txBoundary.withRxOf r := by
  have hstate : (u.withRxOf r).tx.state = u.tx.state := rfl
  unfold txBoundary
  rw [hstate]
  cases u.tx.state with
  | idle => exact txIdle_withRxOf
  | start => rfl
  | data => exact txData_withRxOf
  | stop => exact txStop_withRxOf

/-- TXSTEP does not see the receiver (R169). -/
theorem txStep_withRxOf : (u.withRxOf r).txStep = u.txStep.withRxOf r := by
  unfold txStep
  rw [apply_ite (withRxOf · r), ← txBoundary_withRxOf]
  rfl

/-- The halves of a tick do not see each other: a tick is the transmitter's half of `u` with the receiver that the
receiver's half leaves (R169). -/
theorem tick_eq_withRxOf (u : Usart) (p : Bool) : u.tick p = u.txHalf.withRxOf (u.rxHalf p) := by
  have hr : u.rxHalf p = u.withRxOf (u.rxHalf p) := rxHalf_frame u p
  have htick : u.tick p = (u.withRxOf (u.rxHalf p)).txHalf := (tick_eq u p).trans (congrArg txHalf hr)
  rw [htick]
  unfold txHalf
  rw [apply_ite (withRxOf · _), apply_ite (withRxOf · _), ← txStep_withRxOf]
  rfl

@[simp] theorem tick_rx (u : Usart) (p : Bool) : (u.tick p).rx = (u.rxHalf p).rx := by
  rw [tick_eq_withRxOf]; rfl
@[simp] theorem tick_rdr (u : Usart) (p : Bool) : (u.tick p).rdr = (u.rxHalf p).rdr := by
  rw [tick_eq_withRxOf]; rfl
@[simp] theorem tick_fe (u : Usart) (p : Bool) : (u.tick p).isr.fe = (u.rxHalf p).isr.fe := by
  rw [tick_eq_withRxOf]; rfl
@[simp] theorem tick_ore (u : Usart) (p : Bool) : (u.tick p).isr.ore = (u.rxHalf p).isr.ore := by
  rw [tick_eq_withRxOf]; rfl
@[simp] theorem tick_idle (u : Usart) (p : Bool) : (u.tick p).isr.idle = (u.rxHalf p).isr.idle := by
  rw [tick_eq_withRxOf]; rfl
@[simp] theorem tick_rxne (u : Usart) (p : Bool) : (u.tick p).isr.rxne = (u.rxHalf p).isr.rxne := by
  rw [tick_eq_withRxOf]; rfl
@[simp] theorem tick_rtof (u : Usart) (p : Bool) : (u.tick p).isr.rtof = (u.rxHalf p).isr.rtof := by
  rw [tick_eq_withRxOf]; rfl

/-- What a tick does to the transmitter is what its half does, whatever the line says. -/
theorem tick_txIs_txHalf (u : Usart) (p : Bool) :
    TxIs (u.tick p) u.txHalf.tx u.txHalf.txPin u.txHalf.isr.txe u.txHalf.isr.tc := by
  rw [tick_eq_withRxOf]
  exact ⟨rfl, rfl, rfl, rfl⟩

/-- With TE = 0 a tick puts the pin at 1 (R160). -/
theorem tick_txIs_off (htorn : u.torn = false) (hte : UsartCr1.te u.cr1 = false) (p : Bool) :
    TxIs (u.tick p) { u.tx with osc := 0 } true u.isr.txe u.isr.tc := by
  have htick := tick_txIs_txHalf u p
  rwa [txHalf_off htorn hte] at htick

/-- With TE = 1 what TXSTEP is found to do, a tick does to the transmitter (R155). -/
theorem tick_txIs {x : UsartTx} {pin txe tc : Bool} (htorn : u.torn = false) (hte : UsartCr1.te u.cr1 = true)
    (p : Bool) (h : u.txStep = { u with tx := x, txPin := pin, isr := { u.isr with txe := txe, tc := tc } }) :
    TxIs (u.tick p) x pin txe tc := by
  have htick := tick_txIs_txHalf u p
  rwa [txHalf_on htorn hte, h] at htick

/-! ### TXSTEP case by case (R155 to R159) -/

theorem txStep_between (h : u.tx.osc + 1 < u.nOs) :
    u.txStep = { u with tx := { u.tx with osc := u.tx.osc + 1 } } := if_pos h

theorem txStep_boundary (h : u.nOs ≤ u.tx.osc + 1) :
    u.txStep = txBoundary { u with tx := { u.tx with osc := 0 } } := if_neg h.not_gt

section Boundary

variable (hb : u.nOs ≤ u.tx.osc + 1)
include hb

theorem txStep_idle_quiet (hs : u.tx.state = .idle) (htxe : u.isr.txe = true) :
    u.txStep = { u with tx := { u.tx with osc := 0 }, txPin := true } := by
  simp [txStep_boundary hb, txBoundary, txIdle, hs, htxe]

theorem txStep_start (hs : u.tx.state = .start) :
    u.txStep =
      { u with tx := { u.tx with osc := 0, state := .data, bit := 0 }, txPin := u.tx.tsr.getLsbD 0 } := by
  simp [txStep_boundary hb, txBoundary, txStart, hs]

theorem txStep_data_next (hs : u.tx.state = .data) (hbit : u.tx.bit + 1 < u.nData) :
    u.txStep =
      { u with tx := { u.tx with osc := 0, bit := u.tx.bit + 1 }, txPin := u.tx.tsr.getLsbD (u.tx.bit + 1) } := by
  rw [nData] at hbit
  simp [txStep_boundary hb, txBoundary, txData, nData, hs, hbit]

theorem txStep_data_last (hs : u.tx.state = .data) (hbit : u.nData ≤ u.tx.bit + 1) :
    u.txStep = { u with tx := { u.tx with osc := 0, state := .stop, stop := 0 }, txPin := true } := by
  rw [nData] at hbit
  simp [txStep_boundary hb, txBoundary, txData, nData, hs, hbit.not_gt]

theorem txStep_stop_next (hs : u.tx.state = .stop) (hstop : u.tx.stop + 1 < u.nStop) :
    u.txStep = { u with tx := { u.tx with osc := 0, stop := u.tx.stop + 1 } } := by
  rw [nStop] at hstop
  simp [txStep_boundary hb, txBoundary, txStop, nStop, hs, hstop]

theorem txStep_stop_last (hs : u.tx.state = .stop) (hstop : u.nStop ≤ u.tx.stop + 1) (htxe : u.isr.txe = true) :
    u.txStep =
      { u with
        tx := { u.tx with osc := 0, state := .idle }, txPin := true, isr := { u.isr with txe := true, tc := true } } := by
  rw [nStop] at hstop
  simp [txStep_boundary hb, txBoundary, txStop, nStop, hs, hstop.not_gt, htxe]

/-- A waiting character is loaded, from rest or right after a frame (R156, R159). -/
theorem txStep_load (hs : u.tx.state = .idle ∨ u.tx.state = .stop ∧ u.nStop ≤ u.tx.stop + 1)
    (htxe : u.isr.txe = false) :
    u.txStep =
      { u with
        tx := { u.tx with osc := 0, state := .start, tsr := u.tdr }, txPin := false
        isr := { u.isr with txe := true } } := by
  rcases hs with hs | ⟨hs, hstop⟩
  · simp [txStep_boundary hb, txBoundary, txIdle, txLoad, hs, htxe]
  · rw [nStop] at hstop
    simp [txStep_boundary hb, txBoundary, txStop, txLoad, nStop, hs, hstop.not_gt, htxe]

end Boundary

/-- A transmission is complete only where a frame ends with nothing waiting (R159). -/
theorem txStep_completes (htc : u.isr.tc = false) (h : u.txStep.isr.tc = true) :
    u.txStep.tx.state = .idle ∧ u.txStep.isr.txe = true := by
  rcases Nat.lt_or_ge (u.tx.osc + 1) u.nOs with hosc | hb
  · rw [txStep_between hosc, htc] at h
    cases h
  cases hs : u.tx.state with
  | idle =>
    cases htxe : u.isr.txe
    · rw [txStep_load hb (.inl hs) htxe, htc] at h
      cases h
    · rw [txStep_idle_quiet hb hs htxe]
      exact ⟨hs, htxe⟩
  | start =>
    rw [txStep_start hb hs, htc] at h
    cases h
  | data =>
    rcases Nat.lt_or_ge (u.tx.bit + 1) u.nData with hbit | hbit
    · rw [txStep_data_next hb hs hbit, htc] at h
      cases h
    · rw [txStep_data_last hb hs hbit, htc] at h
      cases h
  | stop =>
    rcases Nat.lt_or_ge (u.tx.stop + 1) u.nStop with hstop | hstop
    · rw [txStep_stop_next hb hs hstop, htc] at h
      cases h
    cases htxe : u.isr.txe
    · rw [txStep_load hb (.inr ⟨hs, hstop⟩) htxe, htc] at h
      cases h
    · rw [txStep_stop_last hb hs hstop htxe]
      exact ⟨rfl, rfl⟩

/-- An idle transmitter with nothing waiting stays so (R155, R156). -/
theorem txStep_rests (hs : u.tx.state = .idle) (htxe : u.isr.txe = true) :
    u.txStep.tx.state = .idle ∧ u.txStep.isr.txe = true := by
  rcases Nat.lt_or_ge (u.tx.osc + 1) u.nOs with hosc | hb
  · rw [txStep_between hosc]
    exact ⟨hs, htxe⟩
  · rw [txStep_idle_quiet hb hs htxe]
    exact ⟨hs, htxe⟩

/-- TC = 1 goes on to mean an idle transmitter with nothing waiting (R159). -/
theorem tick_completeIsIdle (htorn : u.torn = false)
    (h : u.isr.tc = true → u.tx.state = .idle ∧ u.isr.txe = true) (htc : (u.tick p).isr.tc = true) :
    (u.tick p).tx.state = .idle ∧ (u.tick p).isr.txe = true := by
  obtain ⟨htx, -, htxe, htc'⟩ := tick_txIs_txHalf u p
  rw [htx, htxe]
  rw [htc'] at htc
  cases hte : UsartCr1.te u.cr1
  · rw [txHalf_off htorn hte] at htc ⊢
    exact h htc
  · rw [txHalf_on htorn hte] at htc ⊢
    cases hold : u.isr.tc
    · exact txStep_completes hold htc
    · exact (h hold).elim txStep_rests

end Usart

/-- Settles O31: the two halves of a tick do not see each other, and what TXSTEP does at a bit boundary has one
equation for each of the cases. -/
theorem usartTransmitStep : Obligations.UsartTransmitStep := by
  unfold Obligations.UsartTransmitStep
  intro s p hue
  obtain ⟨hcr1, hcr2, hbrr, hrto, htdr, hacc, hdraws, hfault, htorn'⟩ := s.usart.tick_config p
  refine ⟨s.usart.tick p, exec_evUsartTick hue p, hcr1, hcr2, hbrr, hrto, htdr, hacc, hdraws, hfault, htorn',
    fun htorn hte => Usart.tick_txIs_off htorn hte p, fun htorn hte => ?_,
    fun htorn h htc => Usart.tick_completeIsIdle htorn h htc⟩
  refine ⟨fun h => Usart.tick_txIs htorn hte p (Usart.txStep_between h), fun hb => ⟨fun hs htxe => ?_,
    fun hs => ?_, fun hs hbit => ?_, fun hs hbit => ?_, fun hs hstop => ?_, fun hs htxe => ?_, fun hs hstop htxe => ?_⟩⟩
  · exact Usart.tick_txIs htorn hte p (Usart.txStep_idle_quiet hb hs htxe)
  · exact Usart.tick_txIs htorn hte p (Usart.txStep_start hb hs)
  · exact Usart.tick_txIs htorn hte p (Usart.txStep_data_next hb hs hbit)
  · exact Usart.tick_txIs htorn hte p (Usart.txStep_data_last hb hs hbit)
  · exact Usart.tick_txIs htorn hte p (Usart.txStep_stop_next hb hs hstop)
  · exact Usart.tick_txIs htorn hte p (Usart.txStep_load hb hs htxe)
  · exact Usart.tick_txIs htorn hte p (Usart.txStep_stop_last hb hs hstop htxe)

end Sys2Proof.Machine
end

section
/-! PROOF. A waiting character is sent as one frame (41_usart.md R154): at every tick the transmitter is at the bit
that the ticks gone by say. -/

namespace Sys2Proof.Machine

namespace Usart

variable {u v : Usart} {n : Nat}

/-! ### A list of ticks is one tick after another -/

theorem runOps_ticks {s : State} (hue : UsartCr1.ue s.usart.cr1 = true) (levels : List Bool) :
    runOps (ticks levels) s = .next { s with usart := levels.foldl tick s.usart } := by
  induction levels generalizing s with
  | nil => rfl
  | cons p ps ih =>
    obtain ⟨hcr1, -⟩ := tick_config s.usart p
    exact (runOps_cons (exec_evUsartTick hue p) (ticks ps)).trans (ih (by rw [hcr1]; exact hue))

/-! ### Where in its frame a transmitter is -/

/-- A transmitter `x` with its pin and flags, `n` bit boundaries on from the one before it loads the character of `v`:
character waiting, start bit, data bits, stop bits, and from then on at rest (R154, R156 to R159). -/
inductive TxPlace (v : Usart) (x : UsartTx) (pin txe tc : Bool) (n : Nat) : Prop
  | waiting (hs : x.state = .idle) (htxe : txe = false) (hn : n = 0)
  | start (hs : x.state = .start) (htsr : x.tsr = v.tdr) (hpin : pin = false) (htxe : txe = true) (hn : n = 1)
  | data (hs : x.state = .data) (htsr : x.tsr = v.tdr) (hbit : x.bit < v.nData) (hpin : pin = v.tdr.getLsbD x.bit)
      (htxe : txe = true) (hn : n = x.bit + 2)
  | stop (hs : x.state = .stop) (hstop : x.stop < v.nStop) (hpin : pin = true) (htxe : txe = true)
      (hn : n = v.nData + x.stop + 2)
  | sent (hs : x.state = .idle) (hpin : pin = true) (htxe : txe = true) (htc : tc = true) (hn : v.nFrame + 1 ≤ n)

section TxPlace

variable {x : UsartTx} {pin txe tc : Bool}

/-- At bit `j` of the frame the pin has that bit's level (R154). -/
theorem TxPlace.pin_eq_frameLevel {j : Nat} (h : TxPlace v x pin txe tc (j + 1)) (hj : j < v.nFrame) :
    pin = frameLevel v.nData v.tdr j := by
  cases h with
  | waiting _ _ hn => omega
  | start _ _ hpin _ hn =>
    obtain rfl : j = 0 := by omega
    exact hpin
  | data _ _ hbit hpin _ hn =>
    obtain rfl : j = x.bit + 1 := by omega
    rw [frameLevel, if_neg (by omega), if_pos (by omega), Nat.add_sub_cancel, hpin]
  | stop _ _ hpin _ hn => rw [frameLevel, if_neg (by omega), if_neg (by omega), hpin]
  | sent _ _ _ _ hn => omega

/-- Past the last bit of the frame the transmitter is at rest, and transmission is complete (R159). -/
theorem TxPlace.at_end (h : TxPlace v x pin txe tc (v.nFrame + 1)) :
    pin = true ∧ x.state = .idle ∧ txe = true ∧ tc = true := by
  have hframe : v.nFrame = 1 + v.nData + v.nStop := rfl
  have hdata := v.nData_pos
  cases h with
  | waiting _ _ hn => omega
  | start _ _ _ _ hn => omega
  | data _ _ hbit _ _ hn => omega
  | stop _ hstop _ _ hn => omega
  | sent hs hpin htxe htc _ => exact ⟨hpin, hs, htxe, htc⟩

/-- Inside a bit the place stays (R155). -/
theorem TxPlace.osc (h : TxPlace v x pin txe tc n) (k : Nat) : TxPlace v { x with osc := k } pin txe tc n := by
  cases h with
  | waiting hs htxe hn => exact .waiting hs htxe hn
  | start hs htsr hpin htxe hn => exact .start hs htsr hpin htxe hn
  | data hs htsr hbit hpin htxe hn => exact .data hs htsr hbit hpin htxe hn
  | stop hs hstop hpin htxe hn => exact .stop hs hstop hpin htxe hn
  | sent hs hpin htxe htc hn => exact .sent hs hpin htxe htc hn

end TxPlace

/-- A transmitter at place `n` that sends the character of `v` under the configuration of `v`. -/
structure Sending (v : Usart) (n : Nat) (u : Usart) : Prop where
  cr1 : u.cr1 = v.cr1
  cr2 : u.cr2 = v.cr2
  tdr : u.tdr = v.tdr
  whole : u.torn = false
  enabled : UsartCr1.te v.cr1 = true
  osc : u.tx.osc < v.nOs
  place : TxPlace v u.tx u.txPin u.isr.txe u.isr.tc n

namespace Sending

theorem nOs_eq (h : Sending v n u) : u.nOs = v.nOs := congrArg UsartCr1.nOs h.cr1
theorem nData_eq (h : Sending v n u) : u.nData = v.nData := congrArg UsartCr1.nData h.cr1
theorem nStop_eq (h : Sending v n u) : u.nStop = v.nStop := congrArg UsartCr2.nStop h.cr2

/-- A bit boundary takes the transmitter one place on (R156 to R159). -/
theorem boundary (h : Sending v n u) (hb : u.nOs ≤ u.tx.osc + 1) :
    u.txStep.tx.osc = 0 ∧ TxPlace v u.txStep.tx u.txStep.txPin u.txStep.isr.txe u.txStep.isr.tc (n + 1) := by
  have hdata := h.nData_eq
  have hstops := h.nStop_eq
  have hframe : v.nFrame = 1 + v.nData + v.nStop := rfl
  cases h.place with
  | waiting hs htxe hn =>
    rw [txStep_load hb (.inl hs) htxe]
    exact ⟨rfl, .start rfl h.tdr rfl rfl (by omega)⟩
  | start hs htsr hpin htxe hn =>
    rw [txStep_start hb hs]
    exact ⟨rfl, .data rfl htsr v.nData_pos (by rw [htsr]) htxe (by rw [hn])⟩
  | data hs htsr hbit hpin htxe hn =>
    rcases Nat.lt_or_ge (u.tx.bit + 1) u.nData with hnext | hlast
    · rw [txStep_data_next hb hs hnext]
      exact ⟨rfl, .data hs htsr (by rw [← hdata]; exact hnext) (by rw [htsr]) htxe (by rw [hn])⟩
    · rw [txStep_data_last hb hs hlast]
      exact ⟨rfl, .stop rfl v.nStop_pos rfl htxe (by simp only; omega)⟩
  | stop hs hstop hpin htxe hn =>
    rcases Nat.lt_or_ge (u.tx.stop + 1) u.nStop with hnext | hlast
    · rw [txStep_stop_next hb hs hnext]
      exact ⟨rfl, .stop hs (by rw [← hstops]; exact hnext) hpin htxe (by simp only; omega)⟩
    · rw [txStep_stop_last hb hs hlast htxe]
      exact ⟨rfl, .sent rfl rfl rfl rfl (by omega)⟩
  | sent hs hpin htxe htc hn =>
    rw [txStep_idle_quiet hb hs htxe]
    exact ⟨rfl, .sent hs rfl htxe htc (by omega)⟩

/-- The ticks since the bit boundary before the frame. -/
def elapsed (v : Usart) (n : Nat) (u : Usart) : Nat := v.nOs * n + u.tx.osc

/-- The ticks gone by tell the place. -/
theorem place_eq {m k : Nat} (h : Sending v n u) (hm : m < v.nOs) (ht : elapsed v n u = v.nOs * k + m) : n = k := by
  have hdiv := congrArg (· / v.nOs) ht
  simpa only [elapsed, Nat.mul_add_div v.nOs_pos, Nat.div_eq_of_lt h.osc, Nat.div_eq_of_lt hm, Nat.add_zero]
    using hdiv

/-- TXSTEP goes one tick on (R155). -/
theorem txStep (h : Sending v n u) : ∃ n', u.txStep.tx.osc < v.nOs ∧ elapsed v n' u.txStep = elapsed v n u + 1 ∧
    TxPlace v u.txStep.tx u.txStep.txPin u.txStep.isr.txe u.txStep.isr.tc n' := by
  have hos := h.nOs_eq
  rcases Nat.lt_or_ge (u.tx.osc + 1) u.nOs with hosc | hb
  · rw [txStep_between hosc]
    exact ⟨n, hos ▸ hosc, rfl, h.place.osc _⟩
  · obtain ⟨hzero, hplace⟩ := h.boundary hb
    refine ⟨n + 1, hzero ▸ v.nOs_pos, ?_, hplace⟩
    have := h.osc
    rw [elapsed, elapsed, hzero, Nat.mul_add_one]
    omega

/-- A tick goes one tick on, whatever the receive line does (R155, R169). -/
theorem tick (h : Sending v n u) (p : Bool) :
    ∃ n', Sending v n' (u.tick p) ∧ elapsed v n' (u.tick p) = elapsed v n u + 1 := by
  obtain ⟨hcr1, hcr2, -, -, htdr, -, -, -, htorn⟩ := tick_config u p
  have hte : UsartCr1.te u.cr1 = true := by rw [h.cr1, h.enabled]
  obtain ⟨htx, hpin, htxe, htc⟩ := tick_txIs_txHalf u p
  rw [txHalf_on h.whole hte] at htx hpin htxe htc
  obtain ⟨n', hosc, helapsed, hplace⟩ := h.txStep
  refine ⟨n', ⟨hcr1.trans h.cr1, hcr2.trans h.cr2, htdr.trans h.tdr, htorn.trans h.whole, h.enabled, ?_, ?_⟩, ?_⟩
  · rwa [htx]
  · rwa [htx, hpin, htxe, htc]
  · rwa [elapsed, htx]

theorem foldl_tick (h : Sending v n u) (levels : List Bool) : ∃ n', Sending v n' (levels.foldl Usart.tick u) ∧
    elapsed v n' (levels.foldl Usart.tick u) = elapsed v n u + levels.length := by
  induction levels generalizing u n with
  | nil => exact ⟨n, h, rfl⟩
  | cons p ps ih =>
    obtain ⟨n₁, h₁, ht₁⟩ := h.tick p
    obtain ⟨n₂, h₂, ht₂⟩ := ih h₁
    exact ⟨n₂, h₂, by rw [List.foldl_cons, ht₂, ht₁, List.length_cons]; omega⟩

/-- An idle transmitter with a character waiting is at the first place. -/
theorem of_waiting (hte : UsartCr1.te u.cr1 = true) (htorn : u.torn = false) (hosc : u.tx.osc < u.nOs)
    (hs : u.tx.state = .idle) (htxe : u.isr.txe = false) : Sending u 0 u :=
  ⟨rfl, rfl, rfl, htorn, hte, hosc, .waiting hs htxe rfl⟩

/-- After as many ticks as end at place `k`, the transmitter is at place `k`. -/
theorem foldl_tick_place {k m : Nat} (h : Sending u 0 u) (levels : List Bool) (hm : m < u.nOs)
    (hlen : levels.length + u.tx.osc = u.nOs * k + m) : Sending u k (levels.foldl Usart.tick u) := by
  obtain ⟨n', hsending, helapsed⟩ := h.foldl_tick levels
  have hk : elapsed u n' (levels.foldl Usart.tick u) = u.nOs * k + m := by
    rw [helapsed, ← hlen, elapsed]
    omega
  exact hsending.place_eq hm hk ▸ hsending

end Sending

theorem nData_cases (u : Usart) : u.nData = 7 ∨ u.nData = 8 ∨ u.nData = 9 := by
  unfold nData UsartCr1.nData
  split
  · exact .inl rfl
  · split
    · exact .inr (.inr rfl)
    · exact .inr (.inl rfl)

theorem nStop_cases (u : Usart) : u.nStop = 1 ∨ u.nStop = 2 := by
  unfold nStop UsartCr2.nStop
  split
  · exact .inr rfl
  · exact .inl rfl

end Usart

/-- Settles O32: the ticks gone by tell the place of the transmitter in its frame, and the place the level of the
pin. -/
theorem transmitSendsTheFrame : Obligations.TransmitSendsTheFrame := by
  unfold Obligations.TransmitSendsTheFrame
  intro s levels hue hte hinv htorn hs htxe
  have hsending := Usart.Sending.of_waiting hte htorn hinv.txOsc hs htxe
  have hrun := Usart.runOps_ticks hue levels
  refine ⟨s.usart.nData_cases, s.usart.nStop_cases, rfl, fun j m hj hm hlen => ⟨_, hrun, ?_⟩,
    fun hlen => ⟨_, hrun, ?_⟩⟩
  · exact (hsending.foldl_tick_place levels hm hlen).place.pin_eq_frameLevel hj
  · exact (hsending.foldl_tick_place levels s.usart.nOs_pos hlen).place.at_end

end Sys2Proof.Machine
end

section
/-! PROOF. The receiver's half of a USART tick (41_usart.md R161 to R168): the receive frame machine case by case, and
the two detectors, which do not see each other. -/

namespace Sys2Proof.Machine

namespace Usart

variable {u f g : Usart} {p : Bool}

/-! ### The receive frame machine case by case (R162 to R165) -/

theorem startEdge_eq_true_iff : u.startEdge p = true ↔ u.rx.prev = true ∧ p = false := by simp [startEdge]

theorem startEdge_eq_false_iff : u.startEdge p = false ↔ ¬(u.rx.prev = true ∧ p = false) := by
  rw [← startEdge_eq_true_iff, Bool.not_eq_true]

/-- The middle of a bit is not its end. -/
theorem ne_mid_of_eq_nOs {k : Nat} (h : k = u.nOs) : k ≠ u.nOs / 2 := by
  have := u.nOs_pos
  omega

theorem rxFrame_hunt_edge (hs : u.rx.state = .hunt) (he : u.rx.prev = true ∧ p = false) :
    u.rxFrame p = { u with rx := { u.rx with state := .start, osc := 0 } } := by
  simp only [rxFrame, hs]
  exact if_pos (startEdge_eq_true_iff.2 he)

theorem rxFrame_hunt_quiet (hs : u.rx.state = .hunt) (he : ¬(u.rx.prev = true ∧ p = false)) : u.rxFrame p = u := by
  simp only [rxFrame, hs]
  exact if_neg (by rw [startEdge_eq_true_iff]; exact he)

section Start

variable (hs : u.rx.state = .start)
include hs

theorem rxFrame_start : u.rxFrame p = u.rxStart p := by simp only [rxFrame, hs]

theorem rxFrame_start_false (hk : u.rx.osc + 1 = u.nOs / 2) :
    u.rxFrame true = { u with rx := { u.rx with state := .hunt, osc := 0 } } := by
  rw [rxFrame_start hs, rxStart, if_pos hk, if_pos rfl]

theorem rxFrame_start_confirmed (hk : u.rx.osc + 1 = u.nOs / 2) :
    u.rxFrame false = { u with rx := { u.rx with osc := u.rx.osc + 1, rtoRun := false } } := by
  rw [rxFrame_start hs, rxStart, if_pos hk, if_neg Bool.false_ne_true]

theorem rxFrame_start_end (hk : u.rx.osc + 1 = u.nOs) :
    u.rxFrame p = { u with rx := { u.rx with state := .data, bit := 0, osc := 0 } } := by
  rw [rxFrame_start hs, rxStart, if_neg (ne_mid_of_eq_nOs hk), if_pos hk]

theorem rxFrame_start_between (hmid : u.rx.osc + 1 ≠ u.nOs / 2) (hend : u.rx.osc + 1 ≠ u.nOs) :
    u.rxFrame p = { u with rx := { u.rx with osc := u.rx.osc + 1 } } := by
  rw [rxFrame_start hs, rxStart, if_neg hmid, if_neg hend]

end Start

section Data

variable (hs : u.rx.state = .data)
include hs

theorem rxFrame_data : u.rxFrame p = u.rxData p := by simp only [rxFrame, hs]

theorem rxFrame_data_sample (hk : u.rx.osc + 1 = u.nOs / 2) :
    u.rxFrame p = { u with rx := { u.rx with rsr := setRsr u.rx.rsr u.rx.bit p, osc := u.rx.osc + 1 } } := by
  rw [rxFrame_data hs, rxData, if_pos hk]

theorem rxFrame_data_next (hk : u.rx.osc + 1 = u.nOs) (hbit : u.rx.bit + 1 < u.nData) :
    u.rxFrame p = { u with rx := { u.rx with osc := 0, bit := u.rx.bit + 1 } } := by
  rw [rxFrame_data hs, rxData, if_neg (ne_mid_of_eq_nOs hk), if_pos hk, if_pos hbit]

theorem rxFrame_data_last (hk : u.rx.osc + 1 = u.nOs) (hbit : u.nData ≤ u.rx.bit + 1) :
    u.rxFrame p = { u with rx := { u.rx with osc := 0, state := .stop } } := by
  rw [rxFrame_data hs, rxData, if_neg (ne_mid_of_eq_nOs hk), if_pos hk, if_neg hbit.not_gt]

theorem rxFrame_data_between (hmid : u.rx.osc + 1 ≠ u.nOs / 2) (hend : u.rx.osc + 1 ≠ u.nOs) :
    u.rxFrame p = { u with rx := { u.rx with osc := u.rx.osc + 1 } } := by
  rw [rxFrame_data hs, rxData, if_neg hmid, if_neg hend]

end Data

section Stop

variable (hs : u.rx.state = .stop)
include hs

theorem rxFrame_stop : u.rxFrame p = u.rxStop p := by simp only [rxFrame, hs]

theorem rxFrame_stop_between (hmid : u.rx.osc + 1 ≠ u.nOs / 2) :
    u.rxFrame p = { u with rx := { u.rx with osc := u.rx.osc + 1 } } := by
  rw [rxFrame_stop hs, rxStop, if_neg hmid]

theorem rxFrame_stop_completed (hk : u.rx.osc + 1 = u.nOs / 2) : u.rxFrame p = (u.deliver p).rearm := by
  rw [rxFrame_stop hs, rxStop, if_pos hk]

end Stop

/-! ### What the frame machine can change -/

/-- The tick at which a start bit is confirmed (R163). -/
def StartConfirmed (u : Usart) (p : Bool) : Prop := u.rx.state = .start ∧ u.rx.osc + 1 = u.nOs / 2 ∧ p = false

/-- The tick at which a data bit is sampled (R164). -/
def DataSampled (u : Usart) : Prop := u.rx.state = .data ∧ u.rx.osc + 1 = u.nOs / 2

/-- The tick at which a frame is complete (R165). -/
def FrameCompleted (u : Usart) : Prop := u.rx.state = .stop ∧ u.rx.osc + 1 = u.nOs / 2

/-- Everything the frame machine can do at a tick that completes no frame (R162 to R165). -/
theorem rxFrame_of_not_completed (h : ¬u.FrameCompleted) (p : Bool) : ∃ state rsr bit osc rtoRun,
    u.rxFrame p = { u with
      rx := { u.rx with state := state, rsr := rsr, bit := bit, osc := osc, rtoRun := rtoRun } } ∧
    (¬u.DataSampled → rsr = u.rx.rsr) ∧ (¬u.StartConfirmed p → rtoRun = u.rx.rtoRun) := by
  cases hs : u.rx.state with
  | hunt =>
    by_cases he : u.rx.prev = true ∧ p = false
    · exact ⟨_, _, _, _, _, rxFrame_hunt_edge hs he, fun _ => rfl, fun _ => rfl⟩
    · exact ⟨_, _, _, _, _, rxFrame_hunt_quiet hs he, fun _ => rfl, fun _ => rfl⟩
  | start =>
    by_cases hmid : u.rx.osc + 1 = u.nOs / 2
    · cases p with
      | false =>
        exact ⟨_, _, _, _, _, rxFrame_start_confirmed hs hmid, fun _ => rfl, fun hn => absurd ⟨hs, hmid, rfl⟩ hn⟩
      | true => exact ⟨_, _, _, _, _, rxFrame_start_false hs hmid, fun _ => rfl, fun _ => rfl⟩
    by_cases hend : u.rx.osc + 1 = u.nOs
    · exact ⟨_, _, _, _, _, rxFrame_start_end hs hend, fun _ => rfl, fun _ => rfl⟩
    · exact ⟨_, _, _, _, _, rxFrame_start_between hs hmid hend, fun _ => rfl, fun _ => rfl⟩
  | data =>
    by_cases hmid : u.rx.osc + 1 = u.nOs / 2
    · exact ⟨_, _, _, _, _, rxFrame_data_sample hs hmid, fun hn => absurd ⟨hs, hmid⟩ hn, fun _ => rfl⟩
    by_cases hend : u.rx.osc + 1 = u.nOs
    · rcases Nat.lt_or_ge (u.rx.bit + 1) u.nData with hnext | hlast
      · exact ⟨_, _, _, _, _, rxFrame_data_next hs hend hnext, fun _ => rfl, fun _ => rfl⟩
      · exact ⟨_, _, _, _, _, rxFrame_data_last hs hend hlast, fun _ => rfl, fun _ => rfl⟩
    · exact ⟨_, _, _, _, _, rxFrame_data_between hs hmid hend, fun _ => rfl, fun _ => rfl⟩
  | stop => exact ⟨_, _, _, _, _, rxFrame_stop_between hs fun hmid => h ⟨hs, hmid⟩, fun _ => rfl, fun _ => rfl⟩

/-- The character and its flags change where a frame is complete only (R165). -/
theorem rxFrame_sameDelivery (h : ¬u.FrameCompleted) (p : Bool) : SameDelivery u (u.rxFrame p) := by
  obtain ⟨_, _, _, _, _, hframe, -⟩ := rxFrame_of_not_completed h p
  rw [hframe]
  exact ⟨rfl, rfl, rfl, rfl⟩

/-- A complete frame leaves the shift register and the flags of the detectors (R165). -/
theorem rxFrame_completed_keeps (h : u.FrameCompleted) (p : Bool) :
    (u.rxFrame p).rx.rsr = u.rx.rsr ∧ (u.rxFrame p).isr.idle = u.isr.idle ∧
      (u.rxFrame p).isr.rtof = u.isr.rtof := by
  rw [rxFrame_stop_completed h.1 h.2, rearm, deliver]
  split <;> exact ⟨rfl, rfl, rfl⟩

/-- The shift register changes where a data bit is sampled only (R164). -/
theorem rxFrame_rsr (h : ¬u.DataSampled) (p : Bool) : (u.rxFrame p).rx.rsr = u.rx.rsr := by
  by_cases hcomp : u.FrameCompleted
  · exact (rxFrame_completed_keeps hcomp p).1
  · obtain ⟨_, _, _, _, _, hframe, hrsr, -⟩ := rxFrame_of_not_completed hcomp p
    rw [hframe]
    exact hrsr h

/-- The frame machine leaves the flags of the detectors alone. -/
theorem rxFrame_detectorFlags (u : Usart) (p : Bool) :
    (u.rxFrame p).isr.idle = u.isr.idle ∧ (u.rxFrame p).isr.rtof = u.isr.rtof := by
  by_cases hcomp : u.FrameCompleted
  · exact (rxFrame_completed_keeps hcomp p).2
  · obtain ⟨_, _, _, _, _, hframe, -⟩ := rxFrame_of_not_completed hcomp p
    rw [hframe]
    exact ⟨rfl, rfl⟩

/-- Where no frame is complete, the frame machine leaves the counters of the detectors alone. -/
theorem rxFrame_detectorCounters (h : ¬u.FrameCompleted) (p : Bool) :
    (u.rxFrame p).rx.idleArmed = u.rx.idleArmed ∧ (u.rxFrame p).rx.rtoCnt = u.rx.rtoCnt ∧
      (u.rxFrame p).rx.rtoOsc = u.rx.rtoOsc := by
  obtain ⟨_, _, _, _, _, hframe, -⟩ := rxFrame_of_not_completed h p
  rw [hframe]
  exact ⟨rfl, rfl, rfl⟩

/-- The timeout is stopped where a start bit is confirmed and set anew where a frame is complete only (R163, R165). -/
theorem rxFrame_rtoRun (hconf : ¬u.StartConfirmed p) (hcomp : ¬u.FrameCompleted) :
    (u.rxFrame p).rx.rtoRun = u.rx.rtoRun := by
  obtain ⟨_, _, _, _, _, hframe, -, hrun⟩ := rxFrame_of_not_completed hcomp p
  rw [hframe]
  exact hrun hconf

/-- A confirmed start bit stops the timeout (R163). -/
theorem rxFrame_rtoRun_confirmed (h : u.StartConfirmed p) : (u.rxFrame p).rx.rtoRun = false := by
  obtain ⟨hs, hk, rfl⟩ := h
  rw [rxFrame_start_confirmed hs hk]

/-! ### The character a frame delivers (R164, R165) -/

theorem getLsbD_setRsr (r : BitVec 9) (i : Nat) (p : Bool) {j : Nat} (hj : j < 9) :
    (setRsr r i p).getLsbD j = if j = i then p else r.getLsbD j := by
  have hbit : (1#9 <<< i).getLsbD j = decide (j = i) := by
    rw [BitVec.getLsbD_shiftLeft, BitVec.getLsbD_one, Bool.eq_iff_iff]
    simp [hj]
    omega
  cases p with
  | false =>
    rw [setRsr, if_neg Bool.false_ne_true, BitVec.getLsbD_and, BitVec.getLsbD_not, hbit]
    by_cases hji : j = i <;> simp [hj, hji]
  | true =>
    rw [setRsr, if_pos rfl, BitVec.getLsbD_or, hbit]
    by_cases hji : j = i <;> simp [hji]

/-- The received character is the low `N_DATA` bits of the shift register. -/
theorem received_toNat (u : Usart) : u.received.toNat = u.rx.rsr.toNat % 2 ^ u.nData := by
  have hpow : 2 ^ u.nData ≤ 2 ^ 9 := Nat.pow_le_pow_right (by decide) (by have := u.nData_cases; omega)
  have hpos : 0 < 2 ^ u.nData := Nat.two_pow_pos _
  rw [received, BitVec.toNat_and, BitVec.toNat_ofNat, Nat.mod_eq_of_lt (by omega), Nat.and_two_pow_sub_one_eq_mod]

theorem deliver_overrun (h : u.isr.rxne = true) (p : Bool) :
    u.deliver p = { u with isr := { u.isr with ore := true } } :=
  if_pos h

theorem deliver_character (h : u.isr.rxne = false) (p : Bool) :
    u.deliver p = { u with rdr := u.received, isr := { u.isr with rxne := true, fe := u.isr.fe || !p } } :=
  if_neg (by simp [h])

/-! ### The idle-line detector (R167) -/

section Idle

variable {pre : Usart}

/-- A tick that is no edge, before which the frame machine hunts for one. -/
def HuntsQuietly (u : Usart) (p : Bool) : Prop := u.rx.state = .hunt ∧ ¬(u.rx.prev = true ∧ p = false)

theorem idleDetect_quiet (h : pre.HuntsQuietly p) :
    idleDetect pre p f =
      if p = false then { f with rx := { f.rx with idleCnt := 0 } }
      else if pre.rx.idleCnt + 1 < pre.nFrame * pre.nOs then
        { f with rx := { f.rx with idleCnt := pre.rx.idleCnt + 1 } }
      else if pre.rx.idleArmed then
        { f with
          rx := { f.rx with idleCnt := pre.nFrame * pre.nOs, idleArmed := false }
          isr := { f.isr with idle := true } }
      else { f with rx := { f.rx with idleCnt := pre.nFrame * pre.nOs } } :=
  if_pos ⟨h.1, startEdge_eq_false_iff.2 h.2⟩

theorem idleDetect_low (h : pre.HuntsQuietly false) :
    idleDetect pre false f = { f with rx := { f.rx with idleCnt := 0 } } := by
  rw [idleDetect_quiet h, if_pos rfl]

theorem idleDetect_counts (h : pre.HuntsQuietly true) (hcnt : pre.rx.idleCnt + 1 < pre.nFrame * pre.nOs) :
    idleDetect pre true f = { f with rx := { f.rx with idleCnt := pre.rx.idleCnt + 1 } } := by
  rw [idleDetect_quiet h, if_neg nofun, if_pos hcnt]

theorem idleDetect_sets (h : pre.HuntsQuietly true) (hcnt : pre.nFrame * pre.nOs ≤ pre.rx.idleCnt + 1)
    (harmed : pre.rx.idleArmed = true) :
    idleDetect pre true f = { f with
      rx := { f.rx with idleCnt := pre.nFrame * pre.nOs, idleArmed := false }
      isr := { f.isr with idle := true } } := by
  rw [idleDetect_quiet h, if_neg nofun, if_neg hcnt.not_gt, if_pos harmed]

theorem idleDetect_stays (h : pre.HuntsQuietly true) (hcnt : pre.nFrame * pre.nOs ≤ pre.rx.idleCnt + 1)
    (harmed : pre.rx.idleArmed = false) :
    idleDetect pre true f = { f with rx := { f.rx with idleCnt := pre.nFrame * pre.nOs } } := by
  rw [idleDetect_quiet h, if_neg nofun, if_neg hcnt.not_gt, if_neg (by simp [harmed])]

theorem idleDetect_busy (h : ¬pre.HuntsQuietly p) :
    idleDetect pre p f = { f with rx := { f.rx with idleCnt := 0 } } :=
  if_neg fun hq => h ⟨hq.1, startEdge_eq_false_iff.1 hq.2⟩

/-- The idle-line detector changes its own counter and flag. -/
def withIdleOf (f g : Usart) : Usart :=
  { f with
    rx := { f.rx with idleCnt := g.rx.idleCnt, idleArmed := g.rx.idleArmed }
    isr := { f.isr with idle := g.isr.idle } }

theorem idleDetect_eq_withIdleOf (pre f : Usart) (p : Bool) :
    idleDetect pre p f = f.withIdleOf (idleDetect pre p f) := by
  by_cases h : pre.HuntsQuietly p
  · rw [idleDetect_quiet h]
    repeat' split
    all_goals rfl
  · rw [idleDetect_busy h]
    rfl

end Idle

/-! ### The receive-timeout detector (R168) -/

section Timeout

variable {pre : Usart}

/-- The timeout counts at this tick. -/
def TimeoutCounts (pre f : Usart) : Prop := f.rx.rtoRun = true ∧ (pre.rx.state = .hunt ∨ pre.rx.state = .start)

theorem timeoutDetect_off (h : ¬TimeoutCounts pre f) : timeoutDetect pre f = f := if_neg h

theorem timeoutDetect_inside (h : TimeoutCounts pre f) (hosc : f.rx.rtoOsc + 1 < f.nOs) :
    timeoutDetect pre f = { f with rx := { f.rx with rtoOsc := f.rx.rtoOsc + 1 } } :=
  (if_pos h).trans (if_pos hosc)

theorem timeoutDetect_expired (h : TimeoutCounts pre f) (hosc : f.nOs ≤ f.rx.rtoOsc + 1)
    (hcnt : f.rto.toNat ≤ f.rx.rtoCnt + 1) :
    timeoutDetect pre f = { f with
      rx := { f.rx with rtoOsc := 0, rtoCnt := f.rx.rtoCnt + 1, rtoRun := false }
      isr := { f.isr with rtof := true } } :=
  (if_pos h).trans ((if_neg hosc.not_gt).trans (if_pos hcnt))

theorem timeoutDetect_bitTime (h : TimeoutCounts pre f) (hosc : f.nOs ≤ f.rx.rtoOsc + 1)
    (hcnt : f.rx.rtoCnt + 1 < f.rto.toNat) :
    timeoutDetect pre f = { f with rx := { f.rx with rtoOsc := 0, rtoCnt := f.rx.rtoCnt + 1 } } :=
  (if_pos h).trans ((if_neg hosc.not_gt).trans (if_neg hcnt.not_ge))

/-- The receive-timeout detector changes its own counters and flag. -/
def withTimeoutOf (f g : Usart) : Usart :=
  { f with
    rx := { f.rx with rtoRun := g.rx.rtoRun, rtoCnt := g.rx.rtoCnt, rtoOsc := g.rx.rtoOsc }
    isr := { f.isr with rtof := g.isr.rtof } }

theorem timeoutDetect_eq_withTimeoutOf (pre f : Usart) :
    timeoutDetect pre f = f.withTimeoutOf (timeoutDetect pre f) := by
  unfold timeoutDetect
  repeat' split
  all_goals rfl

/-- The timeout detector does not see the idle-line detector. -/
theorem timeoutDetect_withIdleOf : timeoutDetect pre (f.withIdleOf g) = (timeoutDetect pre f).withIdleOf g := by
  unfold timeoutDetect
  rw [apply_ite (withIdleOf · g), apply_ite (withIdleOf · g), apply_ite (withIdleOf · g)]
  rfl

end Timeout

/-! ### RXSTEP (R161) -/

/-- RXSTEP is the frame machine, each detector on what it made of the state, and the line's level for the next tick. -/
theorem rxStep_eq (u : Usart) (p : Bool) :
    u.rxStep p =
      let r := ((u.rxFrame p).withTimeoutOf (timeoutDetect u (u.rxFrame p))).withIdleOf (idleDetect u p (u.rxFrame p))
      { r with rx := { r.rx with prev := p } } := by
  rw [← timeoutDetect_eq_withTimeoutOf, ← timeoutDetect_withIdleOf, ← idleDetect_eq_withIdleOf]
  rfl

section Tick

variable (hre : UsartCr1.re u.cr1 = true)
include hre

/-- A tick leaves the frame in reception and the character as the frame machine does (R161). -/
theorem tick_frame (p : Bool) :
    (u.tick p).rx.state = (u.rxFrame p).rx.state ∧ (u.tick p).rx.rsr = (u.rxFrame p).rx.rsr ∧
    (u.tick p).rx.bit = (u.rxFrame p).rx.bit ∧ (u.tick p).rx.osc = (u.rxFrame p).rx.osc ∧ (u.tick p).rx.prev = p ∧
    (u.tick p).rdr = (u.rxFrame p).rdr ∧ (u.tick p).isr.rxne = (u.rxFrame p).isr.rxne ∧
    (u.tick p).isr.fe = (u.rxFrame p).isr.fe ∧ (u.tick p).isr.ore = (u.rxFrame p).isr.ore := by
  rw [tick_rx, tick_rdr, tick_rxne, tick_fe, tick_ore, rxHalf_on hre, rxStep_eq]
  exact ⟨rfl, rfl, rfl, rfl, rfl, rfl, rfl, rfl, rfl⟩

/-- A tick leaves the idle-line detector as R167 says, on what the frame machine made of the state. -/
theorem tick_idleDetect (p : Bool) :
    (u.tick p).rx.idleCnt = (idleDetect u p (u.rxFrame p)).rx.idleCnt ∧
    (u.tick p).rx.idleArmed = (idleDetect u p (u.rxFrame p)).rx.idleArmed ∧
    (u.tick p).isr.idle = (idleDetect u p (u.rxFrame p)).isr.idle := by
  rw [tick_rx, tick_idle, rxHalf_on hre, rxStep_eq]
  exact ⟨rfl, rfl, rfl⟩

/-- A tick leaves the receive-timeout detector as R168 says, on what the frame machine made of the state. -/
theorem tick_timeoutDetect (p : Bool) :
    (u.tick p).rx.rtoRun = (timeoutDetect u (u.rxFrame p)).rx.rtoRun ∧
    (u.tick p).rx.rtoCnt = (timeoutDetect u (u.rxFrame p)).rx.rtoCnt ∧
    (u.tick p).rx.rtoOsc = (timeoutDetect u (u.rxFrame p)).rx.rtoOsc ∧
    (u.tick p).isr.rtof = (timeoutDetect u (u.rxFrame p)).isr.rtof := by
  rw [tick_rx, tick_rtof, rxHalf_on hre, rxStep_eq]
  exact ⟨rfl, rfl, rfl, rfl⟩

theorem tick_rtoRun_confirmed (h : u.StartConfirmed p) : (u.tick p).rx.rtoRun = false := by
  have hstopped := rxFrame_rtoRun_confirmed h
  rw [(tick_timeoutDetect hre p).1, timeoutDetect_off fun hcounts => by simp [hcounts.1] at hstopped, hstopped]

/-- Where a frame is complete the detectors are as R165 sets them: they do not run at that tick. -/
theorem tick_completed (h : u.FrameCompleted) (p : Bool) :
    (u.tick p).rx.idleArmed = true ∧ (u.tick p).rx.idleCnt = 0 ∧ (u.tick p).rx.rtoRun = UsartCr2.rtoen u.cr2 ∧
    (u.tick p).rx.rtoCnt = 0 ∧ (u.tick p).rx.rtoOsc = 0 := by
  obtain ⟨hidleCnt, hidleArmed, -⟩ := tick_idleDetect hre p
  obtain ⟨hrtoRun, hrtoCnt, hrtoOsc, -⟩ := tick_timeoutDetect hre p
  have hcr2 : (u.deliver p).cr2 = u.cr2 := by
    rw [deliver]
    split <;> rfl
  rw [idleDetect_busy fun hq => nomatch hq.1.symm.trans h.1] at hidleCnt hidleArmed
  rw [timeoutDetect_off (by simp [TimeoutCounts, h.1])] at hrtoRun hrtoCnt hrtoOsc
  rw [hidleArmed, hidleCnt, hrtoRun, hrtoCnt, hrtoOsc, rxFrame_stop_completed h.1 h.2, ← hcr2]
  exact ⟨rfl, rfl, rfl, rfl, rfl⟩

end Tick

/-- With RE = 0 a tick leaves the receiver alone (R166). -/
theorem tick_receiver_off (hre : UsartCr1.re u.cr1 = false) (p : Bool) :
    (u.tick p).rx = u.rx ∧ SameDelivery u (u.tick p) ∧ (u.tick p).isr.idle = u.isr.idle ∧
      (u.tick p).isr.rtof = u.isr.rtof := by
  simp [SameDelivery, rxHalf_off hre]

/-- Away from the middle of a start bit the timeout counts as it did before the tick. -/
theorem timeoutCounts_rxFrame_iff (hconf : ¬u.StartConfirmed p) :
    TimeoutCounts u (u.rxFrame p) ↔ u.rx.rtoRun = true ∧ (u.rx.state = .hunt ∨ u.rx.state = .start) := by
  refine and_congr_left fun hs => ?_
  rw [rxFrame_rtoRun hconf fun hcomp => by simp [hcomp.1] at hs]

end Usart

open Usart in
/-- Settles O34: a tick leaves the frame in reception as the frame machine does, whose state and tick counter say
which of its equations applies. -/
theorem usartReceiveStep : Obligations.UsartReceiveStep := by
  unfold Obligations.UsartReceiveStep
  intro s p hue
  refine ⟨s.usart.tick p, exec_evUsartTick hue p, fun hre => tick_receiver_off hre p, fun hre => ?_⟩
  generalize s.usart = u at *
  obtain ⟨hstate, hrsr, hbit, hosc, hprev, hrdr, hrxne, hfe, hore⟩ := tick_frame hre p
  have hdelivery (h : ¬u.FrameCompleted) : SameDelivery u (u.tick p) := by
    rw [SameDelivery, hrdr, hrxne, hfe, hore]
    exact rxFrame_sameDelivery h p
  have hshift (h : ¬u.DataSampled) : (u.tick p).rx.rsr = u.rx.rsr := hrsr.trans (rxFrame_rsr h p)
  rw [hstate, hbit, hosc]
  -- The four states: R162, R163, R164, R165.
  refine ⟨hprev, fun hs => ⟨hdelivery (by simp [FrameCompleted, hs]), hshift (by simp [DataSampled, hs]), ?_⟩,
    fun hs => ⟨hdelivery (by simp [FrameCompleted, hs]), hshift (by simp [DataSampled, hs]), ?_⟩,
    fun hs => ⟨hdelivery (by simp [FrameCompleted, hs]), ?_⟩,
    fun hs => ⟨hshift (by simp [DataSampled, hs]), fun hmid => ⟨hdelivery fun h => hmid h.2, ?_⟩, fun hk => ?_⟩⟩
  · refine ⟨?_, fun he => ?_, fun he => ?_⟩
    · by_cases he : u.rx.prev = true ∧ p = false
      · rw [rxFrame_hunt_edge hs he]
      · rw [rxFrame_hunt_quiet hs he]
    · rw [rxFrame_hunt_edge hs he]
      exact ⟨rfl, rfl⟩
    · rw [rxFrame_hunt_quiet hs he]
      exact ⟨hs, rfl⟩
  · refine ⟨fun hk hp => ?_, fun hk hp => ?_, fun hk => ?_, fun hmid hend => ?_⟩
    · rw [hp, rxFrame_start_false hs hk]
      exact ⟨rfl, rfl, rfl⟩
    · have hrun : (u.tick p).rx.rtoRun = false := tick_rtoRun_confirmed hre ⟨hs, hk, hp⟩
      rw [hrun, hp, rxFrame_start_confirmed hs hk]
      exact ⟨hs, rfl, rfl, rfl⟩
    · rw [rxFrame_start_end hs hk]
      exact ⟨rfl, rfl, rfl⟩
    · rw [rxFrame_start_between hs hmid hend]
      exact ⟨hs, rfl, rfl⟩
  · refine ⟨fun hk => ?_, fun hmid => hshift fun h => hmid h.2, fun hk hnext => ?_, fun hk hlast => ?_,
      fun hmid hend => ?_⟩
    · rw [hrsr, rxFrame_data_sample hs hk]
      exact ⟨hs, rfl, rfl, fun j hj => getLsbD_setRsr _ _ _ hj⟩
    · rw [rxFrame_data_next hs hk hnext]
      exact ⟨hs, rfl, rfl⟩
    · rw [rxFrame_data_last hs hk hlast]
      exact ⟨rfl, rfl⟩
    · rw [rxFrame_data_between hs hmid hend]
      exact ⟨hs, rfl, rfl⟩
  · rw [rxFrame_stop_between hs hmid]
    exact ⟨hs, rfl⟩
  · obtain ⟨hidleArmed, hidleCnt, hrtoRun, hrtoCnt, hrtoOsc⟩ := tick_completed hre ⟨hs, hk⟩ p
    rw [hrdr, hrxne, hfe, hore, rxFrame_stop_completed hs hk]
    refine ⟨rfl, rfl, hidleArmed, hidleCnt, hrtoRun, hrtoCnt, hrtoOsc, fun hfull => ?_, fun hempty => ?_⟩
    · rw [deliver_overrun hfull]
      exact ⟨rfl, rfl, hfull, rfl⟩
    · rw [deliver_character hempty]
      refine ⟨received_toNat u, rfl, rfl, fun hp => ?_, fun hp => ?_⟩
      · rw [hp]
        exact Bool.or_true _
      · rw [hp]
        exact Bool.or_false _

open Usart in
/-- Settles O35: the detectors run on what the frame machine made of the state, and it leaves their counters and
flags alone but where a start bit is confirmed or a frame complete. -/
theorem usartDetectors : Obligations.UsartDetectors := by
  unfold Obligations.UsartDetectors
  intro s p hue hre
  refine ⟨s.usart.tick p, exec_evUsartTick hue p, ?_⟩
  generalize s.usart = u at *
  obtain ⟨hidleCnt, hidleArmed, hidle⟩ := tick_idleDetect hre p
  obtain ⟨hrtoRun, hrtoCnt, hrtoOsc, hrtof⟩ := tick_timeoutDetect hre p
  obtain ⟨hidleKept, hrtofKept⟩ := rxFrame_detectorFlags u p
  refine ⟨fun hs he => ?_, fun hbusy => ?_, fun hrun hs hconf => ?_, fun hoff => ?_⟩
  · have hquiet : u.HuntsQuietly p := ⟨hs, he⟩
    rw [hidleCnt, hidleArmed, hidle, rxFrame_hunt_quiet hs he]
    refine ⟨fun hp => ?_, fun hp hcnt => ?_, fun hp hcnt => ?_⟩ <;> subst hp
    · rw [idleDetect_low hquiet]
      exact ⟨rfl, rfl, rfl⟩
    · rw [idleDetect_counts hquiet hcnt]
      exact ⟨rfl, rfl, rfl⟩
    · cases harmed : u.rx.idleArmed with
      | false =>
        rw [idleDetect_stays hquiet hcnt harmed]
        exact ⟨rfl, harmed, nofun, fun _ => rfl⟩
      | true =>
        rw [idleDetect_sets hquiet hcnt harmed]
        exact ⟨rfl, rfl, fun _ => rfl, nofun⟩
  · rw [hidleCnt, hidleArmed, hidle, idleDetect_busy fun hquiet => hbusy.elim (· hquiet.1) hquiet.2]
    refine ⟨rfl, hidleKept, fun hcomp => ?_, fun hcomp => (rxFrame_detectorCounters hcomp p).1⟩
    rw [rxFrame_stop_completed hcomp.1 hcomp.2]
    rfl
  · have hcomp : ¬u.FrameCompleted := fun hcomp => by simp [hcomp.1] at hs
    have hcounts := (timeoutCounts_rxFrame_iff hconf).2 ⟨hrun, hs⟩
    obtain ⟨_, _, _, _, _, hframe, -, hsame⟩ := rxFrame_of_not_completed hcomp p
    rw [hframe, hsame hconf] at hcounts hrtoRun hrtoCnt hrtoOsc hrtof
    rw [hrtoRun, hrtoCnt, hrtoOsc, hrtof]
    refine ⟨fun hosc => ?_, fun hosc => ?_⟩
    · rw [timeoutDetect_inside hcounts hosc]
      exact ⟨rfl, rfl, hrun, rfl⟩
    · rcases Nat.lt_or_ge (u.rx.rtoCnt + 1) u.rto.toNat with hcnt | hcnt
      · rw [timeoutDetect_bitTime hcounts hosc hcnt]
        exact ⟨rfl, rfl, fun h => absurd hcnt h.not_gt, fun _ => ⟨rfl, hrun⟩⟩
      · rw [timeoutDetect_expired hcounts hosc hcnt]
        exact ⟨rfl, rfl, fun _ => ⟨rfl, rfl⟩, fun h => absurd h hcnt.not_gt⟩
  · have hstill : ¬TimeoutCounts u (u.rxFrame p) := fun hcounts => by
      by_cases hconf : u.StartConfirmed p
      · simp [TimeoutCounts, rxFrame_rtoRun_confirmed hconf] at hcounts
      · obtain ⟨hrun, hs⟩ := (timeoutCounts_rxFrame_iff hconf).1 hcounts
        rcases hoff with hoff | hoff | hoff | hoff
        · simp [hrun] at hoff
        · exact hconf hoff
        · simp [hoff] at hs
        · simp [hoff] at hs
    rw [hrtoRun, hrtoCnt, hrtoOsc, hrtof, timeoutDetect_off hstill]
    refine ⟨hrtofKept, rxFrame_rtoRun_confirmed, fun hcomp => ?_⟩
    obtain ⟨-, hcnt, hosc⟩ := rxFrame_detectorCounters hcomp p
    exact ⟨hcnt, hosc, fun hconf => rxFrame_rtoRun hconf hcomp⟩

end Sys2Proof.Machine
end

section
/-! PROOF. The USART's registers as HOST reads and writes them (41_usart.md R171 to R184). -/

namespace Sys2Proof.Machine

/-! ### What HOST reads -/

/-- Nothing to move: a value of 0 stands as 0 on the bus, under any layout. -/
theorem moveBits_zero (src dst : List Nat) : moveBits src dst 0#32 = 0#32 := by
  induction src generalizing dst with
  | nil => cases dst <;> rfl
  | cons a src ih =>
    cases dst with
    | nil => rfl
    | cons b dst => simp [moveBits, ih, bitWord]

/-- The status word has the flags at the places R26 names, and no other bit. -/
theorem usartFlags_word_flags (f : UsartFlags) :
    f.word.getLsbD 1 = f.fe ∧ f.word.getLsbD 3 = f.ore ∧ f.word.getLsbD 4 = f.idle ∧ f.word.getLsbD 5 = f.rxne ∧
      f.word.getLsbD 6 = f.tc ∧ f.word.getLsbD 7 = f.txe ∧ f.word.getLsbD 11 = f.rtof ∧
      SetsOnly f.word [1, 3, 4, 5, 6, 7, 11] := by
  refine ⟨?_, ?_, ?_, ?_, ?_, ?_, ?_, (setsOnly_iff _ _).2 fun j hj hnot => ?_⟩
  case refine_8 =>
    rw [usartFlags_word_bits f j hj]
    simp_all
  all_goals
    rw [usartFlags_word_bits f _ (by decide)]
    simp

/-- With no character waiting there is no flag to clear (R172). -/
theorem takeRdr_of_empty {u : Usart} (h : u.isr.rxne = false) : u.takeRdr = u := by
  rw [Usart.takeRdr, ← h]

/-- Settles O26: each read answers its register under the layout; only a character that waits in RDR makes a
read change the USART. -/
theorem usartReads : Obligations.UsartReads := by
  unfold Obligations.UsartReads
  refine fun s => ⟨rfl, toBus_setsOnly _ .usartCr1 _, rfl, rfl, rfl, ⟨_, rfl, ?_⟩, ?_, rfl, rfl, fun hempty => ?_⟩
  · exact usartFlags_word_flags s.usart.isr
  · exact congrArg (fun w => Host.Outcome.next { s with rdata := w }) (moveBits_zero _ _)
  · exact congrArg (fun u => Host.Outcome.next ((s.setUsart u).busRead .usartRdr _)) (takeRdr_of_empty hempty)

/-! ### What HOST writes -/

section Write

variable {s : State} {r : Reg} {raw : Word} {write : Word → OutcomeOf Usart}

theorem busWrite_usart_reserved (h : ¬SetsOnly raw (s.params.layout.of r).pos) :
    s.busWrite r raw (fun w => s.onUsart (write w)) = .refused .reservedBit := busWrite_reserved h _

/-- An accepted write of a USART register changes the USART alone, as the register's own rule says. -/
theorem busWrite_usart_next {u : Usart} (hbits : SetsOnly raw (s.params.layout.of r).pos)
    (h : write (fromBus s.params.layout r raw) = .next u) :
    s.busWrite r raw (fun w => s.onUsart (write w)) = .next { s with usart := u } := by
  rw [busWrite_defined hbits, h]
  rfl

theorem busWrite_usart_refused {reason : Refusal} (hbits : SetsOnly raw (s.params.layout.of r).pos)
    (h : write (fromBus s.params.layout r raw) = .refused reason) :
    s.busWrite r raw (fun w => s.onUsart (write w)) = .refused reason := by
  rw [busWrite_defined hbits, h]
  rfl

end Write

/-! ### CR2 (R23, R174, R175) -/

theorem stop_getLsbD (v : Word) :
    (UsartCr2.stop v).getLsbD 0 = v.getLsbD 12 ∧ (UsartCr2.stop v).getLsbD 1 = v.getLsbD 13 := by
  simp [UsartCr2.stop]

/-- STOP is reserved where its low bit is set (R23). -/
theorem reservedStop_eq (v : Word) : UsartCr2.reservedStop v = v.getLsbD 12 := by
  have hcodes : ∀ c : BitVec 2, (c == 0b01#2 || c == 0b11#2) = c.getLsbD 0 := by decide
  exact (hcodes _).trans (stop_getLsbD v).1

/-- The guarded fields of CR2 are its defined bits (R23, R174). -/
theorem cr2_fields_eq_iff (v w : Word) :
    UsartCr2.stop v = UsartCr2.stop w ∧ UsartCr2.rtoen v = UsartCr2.rtoen w ↔
      ∀ j ∈ [12, 13, 23], v.getLsbD j = w.getLsbD j := by
  have hcodes : ∀ c d : BitVec 2, c = d ↔ c.getLsbD 0 = d.getLsbD 0 ∧ c.getLsbD 1 = d.getLsbD 1 := by decide
  obtain ⟨hv0, hv1⟩ := stop_getLsbD v
  obtain ⟨hw0, hw1⟩ := stop_getLsbD w
  rw [hcodes, hv0, hv1, hw0, hw1]
  simp [UsartCr2.rtoen, and_assoc]

namespace Usart

variable {u : Usart} {v : Word}

theorem writeCr2_reserved (h : v.getLsbD 12 = true) : u.writeCr2 v = .refused .reservedValue :=
  refuseIf_bad ((reservedStop_eq v).trans h) _ _

theorem writeCr2_guarded (hstop : v.getLsbD 12 = false) (hue : UsartCr1.ue u.cr1 = true)
    (h : ∃ j ∈ [12, 13, 23], v.getLsbD j ≠ u.cr2.getLsbD j) : u.writeCr2 v = .refused .configWhileEnabled := by
  have hfields : ¬(UsartCr2.stop v = UsartCr2.stop u.cr2 ∧ UsartCr2.rtoen v = UsartCr2.rtoen u.cr2) := by
    rw [cr2_fields_eq_iff]
    push Not
    exact h
  rw [writeCr2, refuseIf_good ((reservedStop_eq v).trans hstop), refuseIf_bad]
  simpa [hue, Classical.or_iff_not_imp_left] using hfields

theorem writeCr2_stored (hstop : v.getLsbD 12 = false)
    (h : UsartCr1.ue u.cr1 = true → ∀ j ∈ [12, 13, 23], v.getLsbD j = u.cr2.getLsbD j) :
    u.writeCr2 v = .next { u with cr2 := v } :=
  (writeCr2_next u _ v).2 ⟨(reservedStop_eq v).trans hstop, fun hue => (cr2_fields_eq_iff v u.cr2).2 (h hue), rfl⟩

/-! ### BRR (R174, R177) -/

/-- A bus write stores no bit of BRR past its 16. -/
theorem toNat_fromBus_usartBrr_lt (l : Layout) (raw : Word) : (fromBus l .usartBrr raw).toNat < 2 ^ 16 := by
  refine Nat.lt_pow_two_of_testBit _ fun j hj => ?_
  have hbit := fromBus_setsOnly l .usartBrr raw j
  refine hbit fun hmem => ?_
  simp [Reg.bits, bitsFrom] at hmem
  omega

theorem setWidth_eq_iff_toNat_eq (hv : v.toNat < 2 ^ 16) : v.setWidth 16 = u.brr ↔ v.toNat = u.brr.toNat := by
  rw [← BitVec.toNat_inj, BitVec.toNat_setWidth, Nat.mod_eq_of_lt hv]

theorem writeBrr_guarded (hue : UsartCr1.ue u.cr1 = true) (h : v.setWidth 16 ≠ u.brr) :
    u.writeBrr v = .refused .configWhileEnabled := by
  refine refuseIf_bad ?_ _ _
  simp [hue, h]

/-! ### TDR and ICR (R173, R182) -/

theorem writeTdr_disabled (hue : UsartCr1.ue u.cr1 = false) : u.writeTdr v = .refused .disabled :=
  refuseIf_bad (by simp [hue]) _ _

end Usart

/-- A flag stays unless its bit is written 1 (R182). -/
theorem and_not_eq_ite (flag bit : Bool) : (flag && !bit) = if bit then false else flag := by
  cases bit <;> simp

theorem usartFlags_clear_eq (f : UsartFlags) (v : Word) :
    f.clear v = { f with
      fe := if v.getLsbD 1 then false else f.fe
      ore := if v.getLsbD 3 then false else f.ore
      idle := if v.getLsbD 4 then false else f.idle
      tc := if v.getLsbD 6 then false else f.tc
      rtof := if v.getLsbD 11 then false else f.rtof } := by
  simp only [UsartFlags.clear, and_not_eq_ite]

open Usart in
/-- Settles O27: every write checks the reserved bits first, and then does what the register's own rule says to the
USART alone. -/
theorem usartOtherWrites : Obligations.UsartOtherWrites := by
  unfold Obligations.UsartOtherWrites
  refine fun s raw => ⟨⟨fun hbits => ?_, fun hbits hue => ?_, fun hbits hue => ?_⟩,
    ⟨fun hbits => ?_, fun hbits hstop => ?_, fun hbits hstop hue hguard => ?_, fun hbits hstop hguard => ?_⟩,
    ⟨fun hbits => ?_, fun hbits hue hguard => ?_, fun hbits hguard => ?_⟩,
    ⟨fun hbits => ?_, fun hbits => ?_⟩, ⟨fun hbits => ?_, fun hbits => ?_⟩⟩
  · exact busWrite_usart_reserved hbits
  · exact busWrite_usart_refused hbits (writeTdr_disabled hue)
  · exact busWrite_usart_next hbits ((writeTdr_next _ _ _).2 ⟨hue, rfl⟩)
  · exact busWrite_usart_reserved hbits
  · exact busWrite_usart_refused hbits (writeCr2_reserved hstop)
  · exact busWrite_usart_refused hbits (writeCr2_guarded hstop hue hguard)
  · exact busWrite_usart_next hbits (writeCr2_stored hstop hguard)
  · exact busWrite_usart_reserved hbits
  · have hv := toNat_fromBus_usartBrr_lt s.params.layout raw
    exact busWrite_usart_refused hbits (writeBrr_guarded hue (mt (setWidth_eq_iff_toNat_eq hv).1 hguard))
  · have hv := toNat_fromBus_usartBrr_lt s.params.layout raw
    exact busWrite_usart_next hbits
      ((writeBrr_next _ _ _).2 ⟨fun hue => (setWidth_eq_iff_toNat_eq hv).2 (hguard hue), rfl⟩)
  · exact busWrite_usart_reserved hbits
  · exact busWrite_usart_next hbits ((writeRtor_next _ _ _).2 rfl)
  · exact busWrite_usart_reserved hbits
  · refine (busWrite_usart_next hbits ((writeIcr_next _ _ _).2 rfl)).trans ?_
    rw [usartFlags_clear_eq]

end Sys2Proof.Machine
end

section
/-! PROOF. The steps of the I2C sequencer and the end of a lost arbitration (42_i2c.md R210 to R217). -/

namespace Sys2Proof.Machine

variable {s : State}

/-! ### Clearing START or STOP -/

/-- Masking one bit out keeps every other. -/
theorem getLsbD_and_not_bitWord (v : Word) (i j : Nat) :
    (v &&& ~~~bitWord i true).getLsbD j = (v.getLsbD j && decide (j ≠ i)) := by
  rcases Nat.lt_or_ge j 32 with hj | hj
  · rw [BitVec.getLsbD_and, BitVec.getLsbD_not, getLsbD_bitWord _ _ _ hj]
    simp [hj]
  · rw [BitVec.getLsbD_of_ge _ _ hj, BitVec.getLsbD_of_ge v _ hj, Bool.false_and]

theorem getLsbD_and_not_startBit (v : Word) (j : Nat) :
    (v &&& ~~~I2cCr2.startBit).getLsbD j = (v.getLsbD j && decide (j ≠ 13)) :=
  getLsbD_and_not_bitWord v 13 j

theorem getLsbD_and_not_stopBit (v : Word) (j : Nat) :
    (v &&& ~~~I2cCr2.stopBit).getLsbD j = (v.getLsbD j && decide (j ≠ 14)) :=
  getLsbD_and_not_bitWord v 14 j

/-! ### A step that is enabled acts on the I2C alone (R204) -/

theorem exec_evI2cAddr (h : s.i2c.phase = .addr) (ack lost : Bool) :
    exec (.evI2cAddr ack lost) s = .next { s with i2c := s.i2c.sAddr ack lost } :=
  whenEnabled_yes (decide_eq_true h) _ _

theorem exec_evI2cBusFree (h : s.i2c.phase = .lost) : exec .evI2cBusFree s = .next { s with i2c := s.i2c.busFree } :=
  whenEnabled_yes (decide_eq_true h) _ _

theorem exec_evI2cTxByte (h : s.i2c.phase = .txWait) (htxe : s.i2c.isr.txe = false) (ack lost : Bool) :
    exec (.evI2cTxByte ack lost) s = .next { s with i2c := s.i2c.sTxByte ack lost } :=
  whenEnabled_yes (by simp [I2c.txEnabled, h, htxe]) _ _

theorem exec_evI2cRxByte (h : s.i2c.phase = .rxByte) (hrxne : s.i2c.isr.rxne = false) (data : Byte) :
    exec (.evI2cRxByte data) s = .next { s with i2c := s.i2c.sRxByte data } :=
  whenEnabled_yes (by simp [I2c.rxEnabled, h, hrxne]) _ _

theorem exec_evI2cStop (hpe : s.i2c.pe = true) (hstop : I2cCr2.stop s.i2c.cr2 = true)
    (h : s.i2c.phase = .tc ∨ s.i2c.phase = .txWait ∨ s.i2c.phase = .rxByte) :
    exec .evI2cStop s = .next { s with i2c := s.i2c.sStop } :=
  whenEnabled_yes (by simp [I2c.stopEnabled, hpe, hstop, h]) _ _

namespace I2c

variable {i : I2c}

/-! ### Settling SCL (R204; log entry 7) -/

/-- What the step that settles SCL leaves, where SDA is not looked at. -/
theorem settle_eq_scl_sda (i : I2c) :
    i.settle = { i with scl := i.settle.scl, sda := i.settle.sda, draws := i.settle.draws } := by
  rw [settle_sda]
  exact settle_eq i

/-- What the step that settles SCL leaves, where CR2, SDA and the record of the bus are not looked at. -/
theorem settle_eq_lines (i : I2c) : i.settle = { i with
    cr2 := i.settle.cr2, scl := i.settle.scl, sda := i.settle.sda, wire := i.settle.wire, draws := i.settle.draws } := by
  rw [settle_cr2, settle_wire]
  exact settle_eq_scl_sda i

/-! ### The address phase (R210, R211) -/

/-- The I2C once the address has been sent: START is cleared, whatever the answer (R210). -/
def startCleared (i : I2c) : I2c := { i with cr2 := i.cr2 &&& ~~~I2cCr2.startBit }

theorem sAddr_lost (i : I2c) (ack : Bool) :
    i.sAddr ack true = i.startCleared.arbitrationLost (answered (I2cCr2.addressPhase i.cr2)) := rfl

theorem sAddr_nack (i : I2c) : ∃ acts,
    i.sAddr false false = nackAbort { i.startCleared with draws := i.draws + 1 } acts := ⟨_, rfl⟩

theorem sAddr_ack (i : I2c) :
    i.sAddr true false = i.startCleared.afterAddr (answered (I2cCr2.addressPhase i.cr2)) := rfl

@[simp] theorem afterAddr_cr2 (i : I2c) (acts : List BusAct) : (i.afterAddr acts).cr2 = i.cr2 := by
  rw [afterAddr, settle_cr2]
  split_ifs <;> rfl

@[simp] theorem afterAddr_wire (i : I2c) (acts : List BusAct) : (i.afterAddr acts).wire = acts := by
  rw [afterAddr, settle_wire]
  split_ifs <;> rfl

theorem afterAddr_done (h : i.remaining = 0) (acts : List BusAct) :
    i.afterAddr acts = settle { i with isr := { i.isr with tc := true }, phase := .tc, sda := true, wire := acts } :=
  congrArg settle (if_pos h)

theorem afterAddr_write (h : 0 < i.remaining) (hwrite : I2cCr2.rdWrn i.cr2 = false) (acts : List BusAct) :
    i.afterAddr acts = settle { i with
      isr := { i.isr with txis := if i.isr.txe then true else i.isr.txis }
      phase := .txWait, sda := true, wire := acts } := by
  rw [afterAddr, if_neg h.ne', if_neg (by simp [hwrite]), Bool.if_true_left, Bool.decide_eq_true]

theorem afterAddr_read (h : 0 < i.remaining) (hread : I2cCr2.rdWrn i.cr2 = true) (acts : List BusAct) :
    i.afterAddr acts = settle { i with phase := .rxByte, sda := true, wire := acts } := by
  rw [afterAddr, if_neg h.ne', if_pos hread]

theorem sAddr_cr2 (i : I2c) (ack lost : Bool) : (i.sAddr ack lost).cr2 = i.startCleared.cr2 := by
  cases lost
  · cases ack
    · rfl
    · exact afterAddr_cr2 _ _
  · rfl

/-- Clearing START leaves the direction of the transfer. -/
theorem startCleared_rdWrn (i : I2c) : I2cCr2.rdWrn i.startCleared.cr2 = I2cCr2.rdWrn i.cr2 :=
  (getLsbD_and_not_startBit i.cr2 10).trans (Bool.and_true _)

theorem sAddr_done (h : i.remaining = 0) : i.sAddr true false = settle { i.startCleared with
    isr := { i.isr with tc := true }
    phase := .tc, sda := true, wire := answered (I2cCr2.addressPhase i.cr2) } :=
  afterAddr_done (i := i.startCleared) h _

theorem sAddr_write (h : 0 < i.remaining) (hwrite : I2cCr2.rdWrn i.cr2 = false) :
    i.sAddr true false = settle { i.startCleared with
      isr := { i.isr with txis := if i.isr.txe then true else i.isr.txis }
      phase := .txWait, sda := true, wire := answered (I2cCr2.addressPhase i.cr2) } :=
  afterAddr_write (i := i.startCleared) h (i.startCleared_rdWrn.trans hwrite) _

theorem sAddr_read (h : 0 < i.remaining) (hread : I2cCr2.rdWrn i.cr2 = true) :
    i.sAddr true false = settle { i.startCleared with
      phase := .rxByte, sda := true, wire := answered (I2cCr2.addressPhase i.cr2) } :=
  afterAddr_read (i := i.startCleared) h (i.startCleared_rdWrn.trans hread) _

/-! ### Data bytes (R212, R213) -/

theorem sTxByte_lost (i : I2c) (ack : Bool) : i.sTxByte ack true =
    arbitrationLost { i with shift := i.txdr, isr := { i.isr with txe := true }, remaining := i.remaining - 1 }
      [.sent i.txdr, .targetAck] := rfl

theorem sTxByte_nack (i : I2c) : i.sTxByte false false =
    nackAbort { i with shift := i.txdr, isr := { i.isr with txe := true }, remaining := i.remaining - 1 }
      [.sent i.txdr, .targetNack] := rfl

theorem sTxByte_next (h : 1 < i.remaining) : i.sTxByte true false = settle { i with
    isr := { i.isr with txe := true, txis := true }
    shift := i.txdr, remaining := i.remaining - 1, sda := true, wire := [.sent i.txdr, .targetAck] } :=
  congrArg settle (if_pos (Nat.sub_pos_of_lt h))

theorem sTxByte_last (h : i.remaining = 1) : i.sTxByte true false = settle { i with
    isr := { i.isr with txe := true, tc := true }
    shift := i.txdr, remaining := 0, phase := .tc, sda := true, wire := [.sent i.txdr, .targetAck] } := by
  simp [sTxByte, h]

theorem sRxByte_next (h : 1 < i.remaining) (data : Byte) : i.sRxByte data = settle { i with
    isr := { i.isr with rxne := true }
    shift := data, rxdr := data, remaining := i.remaining - 1, sda := false, wire := [.received data, .ack] } :=
  congrArg settle (if_pos (Nat.sub_pos_of_lt h))

theorem sRxByte_last (h : i.remaining = 1) (data : Byte) : i.sRxByte data = settle { i with
    isr := { i.isr with rxne := true, tc := true }
    shift := data, rxdr := data, remaining := 0, phase := .tc, sda := true, wire := [.received data, .nack] } := by
  simp [sRxByte, h]

end I2c

open I2c in
/-- Settles O45: the address phase clears START and goes on as `arbitration_lost()`, `nack_abort()` or `after_addr()`
does, and each of these says the phase it ends in. -/
theorem i2cAddressStep : Obligations.I2cAddressStep := by
  unfold Obligations.I2cAddressStep
  refine fun s => ⟨exec_evI2cBusFree, fun haddr ack lost =>
    ⟨s.i2c.sAddr ack lost, exec_evI2cAddr haddr ack lost, fun j => ?_, ?_, ?_, ?_, ?_, ?_⟩⟩
  · rw [sAddr_cr2]
    exact getLsbD_and_not_startBit s.i2c.cr2 j
  · rintro rfl
    rw [sAddr_lost]
    exact ⟨rfl, _, rfl⟩
  · rintro rfl rfl
    obtain ⟨acts, hacts⟩ := sAddr_nack s.i2c
    rw [hacts]
    exact ⟨rfl, acts, rfl⟩
  · rintro rfl rfl hnone
    rw [sAddr_done hnone]
    exact settle_eq_lines _
  · rintro rfl rfl hsome hwrite
    rw [sAddr_write hsome hwrite]
    exact settle_eq_lines _
  · rintro rfl rfl hsome hread
    rw [sAddr_read hsome hread]
    exact settle_eq_lines _

open I2c in
/-- Settles O46: the byte goes out whatever the answer, which says how the transfer goes on. -/
theorem i2cTxByteStep : Obligations.I2cTxByteStep := by
  unfold Obligations.I2cTxByteStep
  refine fun s ack lost hphase htxe _ =>
    ⟨s.i2c.sTxByte ack lost, exec_evI2cTxByte hphase htxe ack lost, ?_, ?_, ?_, ?_⟩
  · rintro rfl
    rw [sTxByte_lost]
    exact ⟨rfl, _, rfl⟩
  · rintro rfl rfl
    rw [sTxByte_nack]
    rfl
  · rintro rfl rfl hmore
    rw [sTxByte_next hmore]
    exact settle_eq_scl_sda _
  · rintro rfl rfl hlast
    rw [sTxByte_last hlast]
    exact settle_eq_scl_sda _

open I2c in
/-- Settles O47: whether the received byte is the last says how it is answered; a STOP says all of what it leaves. -/
theorem i2cRxByteAndStopSteps : Obligations.I2cRxByteAndStopSteps := by
  unfold Obligations.I2cRxByteAndStopSteps
  refine ⟨fun s data hphase hrxne _ =>
    ⟨s.i2c.sRxByte data, exec_evI2cRxByte hphase hrxne data, fun hmore => ?_, fun hlast => ?_⟩,
    fun s hpe hstop hphase =>
      ⟨s.i2c.sStop, exec_evI2cStop hpe hstop hphase, getLsbD_and_not_stopBit s.i2c.cr2, rfl⟩⟩
  · rw [sRxByte_next hmore]
    exact settle_eq_scl_sda _
  · rw [sRxByte_last hlast]
    exact settle_eq_scl_sda _

end Sys2Proof.Machine
end

section
/-! PROOF. The bytes of the I2C's address phase (42_i2c.md R207, R208). -/

namespace Sys2Proof.Machine

/-! ### The address bytes as numbers -/

/-- A field in front of another is weighed by the width of what follows it. -/
theorem toNat_append_eq_add {m n : Nat} (x : BitVec m) (y : BitVec n) :
    (x ++ y).toNat = 2 ^ n * x.toNat + y.toNat := by
  rw [BitVec.toNat_append, ← Nat.shiftLeft_add_eq_or_of_lt y.isLt, Nat.shiftLeft_eq, Nat.mul_comm]

namespace I2cCr2

variable {v : Word}

theorem addr7_eq {read : Bool} (hrd : rdWrn v = read) :
    addr7 v = BitVec.ofNat 8 (2 * ((sadd v).toNat / 2 % 128) + read.toNat) := by
  refine BitVec.eq_of_toNat_eq ?_
  have hbit := read.toNat_lt
  rw [addr7, hrd, toNat_append_eq_add, BitVec.extractLsb'_toNat, BitVec.toNat_ofBool, Nat.shiftRight_eq_div_pow,
    BitVec.toNat_ofNat]
  omega

theorem header_eq (v : Word) (read : Bool) :
    header v read = BitVec.ofNat 8 (8 * 0b11110 + 2 * ((sadd v).toNat / 256) + read.toNat) := by
  refine BitVec.eq_of_toNat_eq ?_
  have hbit := read.toNat_lt
  have hsadd := (sadd v).isLt
  rw [header, toNat_append_eq_add, toNat_append_eq_add, BitVec.extractLsb'_toNat, BitVec.toNat_ofBool,
    Nat.shiftRight_eq_div_pow, BitVec.toNat_ofNat, BitVec.toNat_ofNat]
  omega

theorem addrLow_eq (v : Word) : addrLow v = BitVec.ofNat 8 ((sadd v).toNat % 256) := by
  refine BitVec.eq_of_toNat_eq ?_
  rw [addrLow, BitVec.extractLsb'_toNat, BitVec.toNat_ofNat]
  omega

/-! ### What the master sends (R207, R208) -/

theorem addressPhase_7bit (hadd : add10 v = false) : addressPhase v = [.sent (addr7 v)] := by
  simp [addressPhase, hadd]

theorem addressPhase_10bit_write (hadd : add10 v = true) (hrd : rdWrn v = false) :
    addressPhase v = [.sent (header v false), .sent (addrLow v)] := by
  simp [addressPhase, hadd, hrd]

theorem addressPhase_10bit_read (hadd : add10 v = true) (hrd : rdWrn v = true) (hhead : head10r v = false) :
    addressPhase v = [.sent (header v false), .sent (addrLow v), .repeatedStart, .sent (header v true)] := by
  simp [addressPhase, hadd, hrd, hhead]

theorem addressPhase_10bit_header (hadd : add10 v = true) (hrd : rdWrn v = true) (hhead : head10r v = true) :
    addressPhase v = [.sent (header v true)] := by
  simp [addressPhase, hadd, hrd, hhead]

end I2cCr2

theorem I2c.sAddr_ack_wire (i : I2c) : (i.sAddr true false).wire = answered (I2cCr2.addressPhase i.cr2) :=
  afterAddr_wire _ _

open I2cCr2 in
/-- Settles O42: with every byte acknowledged the record is the bytes of the address phase, each answered, and each
byte is the number its fields make. -/
theorem i2cAddressBytes : Obligations.I2cAddressBytes := by
  unfold Obligations.I2cAddressBytes
  refine fun s haddr => ⟨_, exec_evI2cAddr haddr true false, ?_⟩
  rw [I2c.sAddr_ack_wire]
  generalize s.i2c.cr2 = v
  refine ⟨fun hadd hrd => ?_, fun hadd hrd => ?_, fun hadd hrd => ?_, fun hadd hrd hhead => ?_,
    fun hadd hrd hhead => ?_⟩
  · rw [addressPhase_7bit hadd, addr7_eq hrd]
    rfl
  · rw [addressPhase_7bit hadd, addr7_eq hrd]
    rfl
  · rw [addressPhase_10bit_write hadd hrd, header_eq, addrLow_eq]
    rfl
  · rw [addressPhase_10bit_read hadd hrd hhead, header_eq, header_eq, addrLow_eq]
    rfl
  · rw [addressPhase_10bit_header hadd hrd hhead, header_eq]
    rfl

end Sys2Proof.Machine
end

section
/-! PROOF. The I2C's registers as HOST reads and writes them (42_i2c.md R203, R221 to R231). -/

namespace Sys2Proof.Machine

/-! ### What HOST reads -/

/-- The status word has the flags at the places R33 names, and no other bit. -/
theorem i2cFlags_word_flags (f : I2cFlags) :
    f.word.getLsbD 0 = f.txe ∧ f.word.getLsbD 1 = f.txis ∧ f.word.getLsbD 2 = f.rxne ∧ f.word.getLsbD 4 = f.nackf ∧
      f.word.getLsbD 5 = f.stopf ∧ f.word.getLsbD 6 = f.tc ∧ f.word.getLsbD 9 = f.arlo ∧
      f.word.getLsbD 15 = f.busy ∧ SetsOnly f.word [0, 1, 2, 4, 5, 6, 9, 15] := by
  refine ⟨?_, ?_, ?_, ?_, ?_, ?_, ?_, ?_, (setsOnly_iff _ _).2 fun j hj hnot => ?noOther⟩
  case noOther =>
    rw [i2cFlags_word_bits f j hj]
    simp_all
  all_goals
    rw [i2cFlags_word_bits f _ (by decide)]
    simp

namespace I2c

variable {i : I2c} {v : Word}

/-- Where SCL is settled in one case only, still nothing else changes but the count of free values. -/
theorem ite_settle_eq (p : Prop) [Decidable p] (i : I2c) : (if p then i.settle else i) =
    { i with scl := (if p then i.settle else i).scl, draws := (if p then i.settle else i).draws } := by
  split_ifs
  · exact settle_eq i
  · rfl

/-- Taking the received byte clears RXNE, and lets SCL go on (R226, R204). -/
theorem takeRxdr_eq (i : I2c) : i.takeRxdr =
    { i with isr := { i.isr with rxne := false }, scl := i.takeRxdr.scl, draws := i.takeRxdr.draws } :=
  ite_settle_eq _ _

/-- With no byte waiting there is no flag to clear (R226). -/
theorem takeRxdr_of_empty (h : i.isr.rxne = false) : i.takeRxdr = i := by
  rw [takeRxdr, if_neg (by simp [h]), ← h]

end I2c

theorem exec_rdI2cCr1 {s : State} {pe : Bool} (h : s.i2c.pe = pe) :
    exec .rdI2cCr1 s = .next { s with rdata := toBus s.params.layout .i2cCr1 (bitWord 0 pe) } := by
  subst h
  rfl

/-- Settles O38: each read answers its register under the layout; only a byte that waits in RXDR makes a read change
the I2C. -/
theorem i2cReads : Obligations.I2cReads := by
  unfold Obligations.I2cReads
  refine fun s => ⟨exec_rdI2cCr1, exec_rdI2cCr1, rfl, rfl, ⟨_, rfl, i2cFlags_word_flags s.i2c.isr⟩, ?_, rfl,
    s.i2c.takeRxdr, rfl, s.i2c.takeRxdr_eq, I2c.takeRxdr_of_empty⟩
  exact congrArg (fun w => Host.Outcome.next { s with rdata := w }) (moveBits_zero _ _)

/-! ### What HOST writes -/

section Write

variable {s : State} {r : Reg} {raw : Word}

theorem busWrite_i2c_reserved (h : ¬SetsOnly raw (s.params.layout.of r).pos) (write : Word → OutcomeOf I2c) :
    s.busWrite r raw (fun w => s.onI2c (write w)) = .refused .reservedBit := busWrite_reserved h _

/-- A write with no reserved bit does to the I2C what the register's own rule says, and that alone. -/
theorem busWrite_i2c_eq {write : Word → OutcomeOf I2c} {o : OutcomeOf I2c}
    (hbits : SetsOnly raw (s.params.layout.of r).pos) (h : write (fromBus s.params.layout r raw) = o) :
    s.busWrite r raw (fun w => s.onI2c (write w)) = s.onI2c o :=
  (busWrite_defined hbits _).trans (congrArg s.onI2c h)

end Write

/-! ### CR2 (R222) -/

/-- The guarded fields of CR2 are its defined bits but START and STOP. -/
theorem i2cCr2_cfg_eq_iff (v w : Word) :
    I2cCr2.cfg v = I2cCr2.cfg w ↔ ∀ j ∈ bitsFrom 0 12 ++ bitsFrom 16 25, v.getLsbD j = w.getLsbD j := by
  have hmask : 0x03FF1FFF#32 = bitsMask (bitsFrom 0 12 ++ bitsFrom 16 25) := by decide
  have hwidth : ∀ j ∈ bitsFrom 0 12 ++ bitsFrom 16 25, j < 32 := by decide
  have hbit (x : Word) {j : Nat} (hj : j < 32) :
      (I2cCr2.cfg x).getLsbD j = (x.getLsbD j && decide (j ∈ bitsFrom 0 12 ++ bitsFrom 16 25)) := by
    rw [I2cCr2.cfg, BitVec.getLsbD_and, hmask, getLsbD_bitsMask _ j hj]
  constructor
  · intro h j hj
    have hcfg := congrArg (fun x : Word => x.getLsbD j) h
    simpa only [hbit _ (hwidth j hj), hj, decide_true, Bool.and_true] using hcfg
  · intro h
    refine BitVec.eq_of_getLsbD_eq fun j hj => ?_
    rw [hbit v hj, hbit w hj]
    by_cases hmem : j ∈ bitsFrom 0 12 ++ bitsFrom 16 25
    · rw [h j hmem]
    · simp [hmem]

namespace I2c

variable {i : I2c} {v : Word}

theorem writeCr2_configWhileStart (hstart : i.cr2.getLsbD 13 = true)
    (h : ∃ j ∈ bitsFrom 0 12 ++ bitsFrom 16 25, v.getLsbD j ≠ i.cr2.getLsbD j) :
    i.writeCr2 v = .refused .configWhileStart := by
  have hcfg : I2cCr2.cfg v ≠ I2cCr2.cfg i.cr2 := by
    rw [Ne, i2cCr2_cfg_eq_iff]
    push Not
    exact h
  exact refuseIf_bad (by simp [I2cCr2.start, hstart, hcfg]) _ _

theorem writeCr2_startAndStop
    (hcfg : i.cr2.getLsbD 13 = true → ∀ j ∈ bitsFrom 0 12 ++ bitsFrom 16 25, v.getLsbD j = i.cr2.getLsbD j)
    (hpe : i.pe = true) (hstart : i.newStart v = true) (hstop : i.newStop v = true) :
    i.writeCr2 v = .refused .startAndStop := by
  have hguard : (I2cCr2.start i.cr2 && I2cCr2.cfg v != I2cCr2.cfg i.cr2) = false := by
    cases h : I2cCr2.start i.cr2
    · rfl
    · simp [(i2cCr2_cfg_eq_iff v i.cr2).2 (hcfg h)]
  rw [writeCr2, refuseIf_good hguard, refuseIf_bad (by simp [hpe, hstart, hstop])]

theorem writeCr2_stored
    (hcfg : i.cr2.getLsbD 13 = true → ∀ j ∈ bitsFrom 0 12 ++ bitsFrom 16 25, v.getLsbD j = i.cr2.getLsbD j)
    (hboth : ¬(i.pe = true ∧ i.newStart v = true ∧ i.newStop v = true)) :
    i.writeCr2 v = .next { i with
      cr2 := I2cCr2.make v (i.newStart v) (i.newStop v)
      isr := { i.isr with
        tc := if i.pe ∧ (v.getLsbD 13 ∨ v.getLsbD 14) then false else i.isr.tc } } := by
  rw [(writeCr2_next _ _ _).2 ⟨fun h => (i2cCr2_cfg_eq_iff v i.cr2).2 (hcfg h), hboth, rfl⟩, and_not_eq_ite]
  simp [I2cCr2.start, I2cCr2.stop]

end I2c

/-- Every bit of CR2 as a write of its defined bits stores it (R222). -/
theorem i2cCr2_make_flags {v : Word} (hv : SetsOnly v (Reg.bits .i2cCr2)) (start stop : Bool) :
    (I2cCr2.make v start stop).getLsbD 13 = start ∧ (I2cCr2.make v start stop).getLsbD 14 = stop ∧
      ∀ j, j ≠ 13 → j ≠ 14 → (I2cCr2.make v start stop).getLsbD j = v.getLsbD j := by
  refine ⟨i2cCr2_make_bits v start stop hv 13 (by decide), i2cCr2_make_bits v start stop hv 14 (by decide),
    fun j h13 h14 => ?_⟩
  rcases Nat.lt_or_ge j 32 with hj | hj
  · rw [i2cCr2_make_bits v start stop hv j hj, if_neg h13, if_neg h14]
  · rw [BitVec.getLsbD_of_ge _ _ hj, BitVec.getLsbD_of_ge _ _ hj]

open I2c in
/-- Settles O40: the three checks in their order, and then the write, of which each bit is known. -/
theorem i2cCr2Write : Obligations.I2cCr2Write := by
  unfold Obligations.I2cCr2Write
  refine fun s raw => ⟨fun hbits => ?_, fun hbits hstart hcfg => ?_, fun hbits hcfg hpe hstart hstop => ?_,
    fun hbits hcfg hboth => ⟨_, ?_, i2cCr2_make_flags (fromBus_setsOnly _ _ _) _ _⟩⟩
  · exact busWrite_i2c_reserved hbits _
  · exact busWrite_i2c_eq hbits (writeCr2_configWhileStart hstart hcfg)
  · exact busWrite_i2c_eq hbits (writeCr2_startAndStop hcfg hpe hstart hstop)
  · exact busWrite_i2c_eq hbits (writeCr2_stored hcfg hboth)

/-! ### TIMINGR, ICR and TXDR (R203, R224, R228, R230) -/

namespace I2c

variable {i : I2c} {v : Word}

theorem writeTimingr_guarded (hpe : i.pe = true) (h : v ≠ i.timingr) :
    i.writeTimingr v = .refused .configWhileEnabled :=
  refuseIf_bad (by simp [hpe, h]) _ _

theorem writeTxdr_disabled (hpe : i.pe = false) : i.writeTxdr v = .refused .disabled :=
  refuseIf_bad (by simp [hpe]) _ _

/-- An accepted write of TXDR takes the byte and clears TXE and TXIS, and lets SCL go on (R230, R204). -/
theorem writeTxdr_accepted (hpe : i.pe = true) (v : Word) : ∃ c : I2c, i.writeTxdr v = .next c ∧
    c = { i with
      txdr := v.setWidth 8, isr := { i.isr with txe := false, txis := false }, scl := c.scl, draws := c.draws } :=
  ⟨_, (writeTxdr_next _ _ _).2 ⟨hpe, rfl⟩, ite_settle_eq _ _⟩

end I2c

theorem i2cFlags_clear_eq (f : I2cFlags) (v : Word) :
    f.clear v = { f with
      nackf := if v.getLsbD 4 then false else f.nackf
      stopf := if v.getLsbD 5 then false else f.stopf
      arlo := if v.getLsbD 9 then false else f.arlo } := by
  simp only [I2cFlags.clear, and_not_eq_ite]

open I2c in
/-- Settles O41: every write checks the reserved bits first, and then does what the register's own rule says to the
I2C alone. -/
theorem i2cOtherWrites : Obligations.I2cOtherWrites := by
  unfold Obligations.I2cOtherWrites
  refine fun s raw => ⟨⟨fun hbits => ?_, fun hbits hpe hchange => ?_, fun hbits hguard => ?_⟩,
    ⟨fun hbits => ?_, fun hbits => ?_⟩,
    ⟨fun hbits => ?_, fun hbits hpe => ?_, fun hbits hpe => ?_⟩⟩
  · exact busWrite_i2c_reserved hbits _
  · exact busWrite_i2c_eq hbits (writeTimingr_guarded hpe hchange)
  · exact busWrite_i2c_eq hbits ((writeTimingr_next _ _ _).2 ⟨hguard, rfl⟩)
  · exact busWrite_i2c_reserved hbits _
  · refine (busWrite_i2c_eq hbits ((writeIcr_next _ _ _).2 rfl)).trans ?_
    rw [i2cFlags_clear_eq]
    rfl
  · exact busWrite_i2c_reserved hbits _
  · exact busWrite_i2c_eq hbits (writeTxdr_disabled hpe)
  · obtain ⟨c, hwrite, hc⟩ := writeTxdr_accepted hpe (fromBus s.params.layout .i2cTxdr raw)
    exact ⟨c, busWrite_i2c_eq hbits hwrite, hc⟩

end Sys2Proof.Machine
end

section
/-! PROOF. A frame on SCK and MOSI (43_spi.md R258, R263 to R265). -/

namespace Sys2Proof.Machine

/-! ### The table of R258 -/

namespace SpiCr1

theorem br_divisor_bounds (v : Word) : 2 ≤ 2 ^ (br v + 1) ∧ 2 ^ (br v + 1) ≤ 256 := by
  have hbr : br v < 8 := (v.extractLsb' 3 3).isLt
  exact ⟨Nat.pow_le_pow_right (n := 2) (i := 1) (by decide) (by omega),
    Nat.pow_le_pow_right (j := 8) (by decide) hbr⟩

/-- CPOL and CPHA settle every edge: one row of the table for each of their four combinations. -/
theorem edges_mem_table (v : Word) :
    (cpol v, cpha v, capturesFirstEdge v, capturesRising v, changesFirstEdge v, changesRising v,
        firstBitBeforeEdge v) ∈
      [(false, false, true, true, false, false, true), (false, true, false, false, true, true, false),
       (true, false, true, false, false, true, true), (true, true, false, true, true, false, false)] := by
  simp only [capturesFirstEdge, capturesRising, changesFirstEdge, changesRising, firstBitBeforeEdge]
  generalize cpol v = cpol
  generalize cpha v = cpha
  revert cpol cpha
  decide

/-- SCK begins a period at its idle level just when the capture is at the first edge. -/
theorem not_capturesRising_eq_cpol_iff (v : Word) : (!capturesRising v) = cpol v ↔ cpha v = false := by
  rw [capturesRising]
  cases cpol v <;> cases cpha v <;> decide

/-- Period `k` of a record of whole periods is that of bit `k`. -/
theorem getElem?_flatMap_bitWave (v : Word) (bits : List Bool) {k : Nat} {b : Bool} (hb : bits[k]? = some b) :
    (bits.flatMap (bitWave v))[2 * k]? = some (!capturesRising v, b) ∧
      (bits.flatMap (bitWave v))[2 * k + 1]? = some (capturesRising v, b) := by
  induction bits generalizing k with
  | nil => cases hb
  | cons c bits ih =>
    cases k with
    | zero =>
      obtain rfl : c = b := by simpa using hb
      exact ⟨rfl, rfl⟩
    | succ k => exact ih (by simpa using hb)

theorem length_flatMap_bitWave (v : Word) (bits : List Bool) : (bits.flatMap (bitWave v)).length = 2 * bits.length := by
  simp [List.length_flatMap, bitWave, Nat.mul_comm]

end SpiCr1

/-! ### What S_BIT does (R264) -/

namespace Spi

variable {p : Spi}

/-- A bit exchanged, before the shifter counts it. -/
def exchange (p : Spi) (miso : Bool) : Spi :=
  { p with
    mosi := p.sh.tx.getLsbD p.bitIndex
    sh := { p.sh with rx := setFrameBit p.sh.rx p.bitIndex miso }
    wave := p.wave ++ SpiCr1.bitWave p.cr1 (p.sh.tx.getLsbD p.bitIndex) }

theorem sBit_next (h : p.sh.cnt + 1 < p.frameBits) (miso : Bool) :
    p.sBit miso = { p.exchange miso with sh := { (p.exchange miso).sh with cnt := p.sh.cnt + 1 } } := if_pos h

theorem sBit_last (h : p.frameBits ≤ p.sh.cnt + 1) (miso : Bool) :
    p.sBit miso = (p.exchange miso).frameDone := if_neg h.not_gt

/-- What no S_BIT changes: all but the shifter, the wire and what the end of a frame delivers (R264, R265). -/
theorem sBit_frame (p : Spi) (miso : Bool) :
    p.sBit miso = { p.exchange miso with
      sh := (p.sBit miso).sh, rxf := (p.sBit miso).rxf, ovr := (p.sBit miso).ovr, sck := (p.sBit miso).sck } := by
  rcases Nat.lt_or_ge (p.sh.cnt + 1) p.frameBits with h | h
  · rw [sBit_next h]
  · rw [sBit_last h]
    rfl

theorem sBit_cr1 (p : Spi) (miso : Bool) : (p.sBit miso).cr1 = p.cr1 :=
  (congrArg cr1 (sBit_frame p miso)).trans rfl

theorem sBit_wave (p : Spi) (miso : Bool) :
    (p.sBit miso).wave = p.wave ++ SpiCr1.bitWave p.cr1 (p.sh.tx.getLsbD p.bitIndex) :=
  (congrArg wave (sBit_frame p miso)).trans rfl

/-! ### A whole frame -/

/-- The shifter is enabled and busy with a frame, `n` bits short of its end. -/
structure BitsLeft (p : Spi) (n : Nat) : Prop where
  spe : SpiCr1.spe p.cr1 = true
  busy : p.sh.busy = true
  left : p.sh.cnt + n = p.frameBits

theorem BitsLeft.bitEnabled {n : Nat} (h : p.BitsLeft n) : p.bitEnabled = true := by
  rw [Spi.bitEnabled, h.spe, h.busy, Bool.and_self]

theorem BitsLeft.of_load (h : p.loadEnabled = true) : p.sLoad.BitsLeft p.frameBits := by
  simp only [loadEnabled, running, Bool.and_eq_true] at h
  obtain ⟨⟨⟨hspe, -⟩, -⟩, -⟩ := h
  exact ⟨hspe, rfl, Nat.zero_add _⟩

/-- A bit that is not the last leaves one less to go (R264). -/
theorem BitsLeft.sBit {n : Nat} (h : p.BitsLeft (n + 2)) (miso : Bool) : (p.sBit miso).BitsLeft (n + 1) := by
  obtain ⟨hspe, hbusy, hleft⟩ := h
  rw [sBit_next (by omega)]
  exact ⟨hspe, hbusy, (Nat.add_right_comm _ _ _).trans hleft⟩

/-- Bits exchanged put one period each on the wire. -/
theorem foldl_sBit_wave (p : Spi) (miso : List Bool) : ∃ bits : List Bool, bits.length = miso.length ∧
    (miso.foldl sBit p).wave = p.wave ++ bits.flatMap (SpiCr1.bitWave p.cr1) := by
  induction miso generalizing p with
  | nil => exact ⟨[], rfl, by simp⟩
  | cons m ms ih =>
    obtain ⟨bits, hlength, hwave⟩ := ih (p.sBit m)
    refine ⟨p.sh.tx.getLsbD p.bitIndex :: bits, congrArg (· + 1) hlength, ?_⟩
    rw [List.foldl_cons, hwave, sBit_wave, sBit_cr1, List.flatMap_cons, List.append_assoc]

theorem exec_evSpiLoad {s : State} (h : s.spi.loadEnabled = true) :
    exec .evSpiLoad s = .next (s.setSpi s.spi.sLoad) := whenEnabled_yes h _ _

theorem exec_evSpiBit {s : State} (h : s.spi.bitEnabled = true) (miso : Bool) :
    exec (.evSpiBit miso) s = .next (s.setSpi (s.spi.sBit miso)) := whenEnabled_yes h _ _

/-- The steps that carry a frame on, to its end at the most, all happen. -/
theorem runOps_bits {s : State} {n : Nat} (h : s.spi.BitsLeft n) {miso : List Bool} (hn : miso.length ≤ n) :
    runOps (miso.map .evSpiBit) s = .next (s.setSpi (miso.foldl sBit s.spi)) := by
  induction miso generalizing s n with
  | nil => rfl
  | cons m ms ih =>
    refine (runOps_cons (exec_evSpiBit h.bitEnabled m) _).trans ?_
    cases ms with
    | nil => rfl
    | cons m' ms =>
      obtain ⟨k, rfl⟩ := Nat.exists_eq_add_of_le' (Nat.le_trans (Nat.le_add_left 2 ms.length) hn)
      exact ih (h.sBit m) (Nat.le_of_succ_le_succ hn)

/-- S_LOAD and then bits, no more than the frame has: every step happens (R263, R264). -/
theorem runOps_load_bits {s : State} (h : s.spi.loadEnabled = true) {miso : List Bool}
    (hn : miso.length ≤ s.spi.frameBits) :
    runOps (.evSpiLoad :: miso.map .evSpiBit) s = .next (s.setSpi (miso.foldl sBit s.spi.sLoad)) :=
  (runOps_cons (exec_evSpiLoad h) _).trans (runOps_bits (.of_load h) hn)

/-- The last bit of a frame takes SCK back to its idle level (R265). -/
theorem foldl_sBit_sck {miso : List Bool} (hne : miso ≠ []) (h : p.BitsLeft miso.length) :
    (miso.foldl sBit p).sck = SpiCr1.cpol p.cr1 := by
  induction miso generalizing p with
  | nil => exact absurd rfl hne
  | cons m ms ih =>
    cases ms with
    | nil =>
      have hlast : p.frameBits ≤ p.sh.cnt + 1 := h.left.ge
      rw [List.foldl_cons, List.foldl_nil, sBit_last hlast]
      rfl
    | cons m' ms => rw [List.foldl_cons, ih (List.cons_ne_nil _ _) (h.sBit m), sBit_cr1]

end Spi

open Spi in
/-- Settles O54: the table has a row for each CPOL and CPHA; the record that S_LOAD empties gets one period for each
bit of the frame, and the last bit leaves SCK at its idle level. -/
theorem spiClockEdges : Obligations.SpiClockEdges := by
  unfold Obligations.SpiClockEdges
  refine ⟨fun f v => ⟨rfl, (SpiCr1.br_divisor_bounds v).1, (SpiCr1.br_divisor_bounds v).2,
    SpiCr1.edges_mem_table v⟩, fun s miso _ hload hlength => ?_⟩
  have hleft : s.spi.sLoad.BitsLeft miso.length := hlength ▸ .of_load hload
  have hne : miso ≠ [] := List.ne_nil_of_length_pos (hlength ▸ Nat.succ_pos _)
  obtain ⟨bits, hbits, hwave⟩ := foldl_sBit_wave s.spi.sLoad miso
  refine ⟨_, runOps_load_bits hload hlength.le, foldl_sBit_sck hne hleft, ?_⟩
  rw [State.setSpi_spi, hwave]
  refine ⟨(SpiCr1.length_flatMap_bitWave _ _).trans (by rw [hbits, hlength]), fun k hk => ?_⟩
  have hbit : bits[k]? = some bits[k] := List.getElem?_eq_getElem (by omega)
  obtain ⟨hfirst, hsecond⟩ := SpiCr1.getElem?_flatMap_bitWave s.spi.cr1 bits hbit
  exact ⟨_, _, hfirst, hsecond, rfl, (Bool.not_not _).symm, SpiCr1.not_capturesRising_eq_cpol_iff _⟩

end Sys2Proof.Machine
end

section
/-! PROOF. The SPI's status word, and its registers as HOST reads and writes them (43_spi.md R252 to R256, R271,
R273). -/

namespace Sys2Proof.Machine

/-! ### SR (R252, R253) -/

theorem mem_bitsFrom {lo hi j : Nat} : j ∈ bitsFrom lo hi ↔ lo ≤ j ∧ j ≤ hi := by
  simp only [bitsFrom, List.mem_map, List.mem_range]
  constructor
  · rintro ⟨k, hk, rfl⟩
    omega
  · rintro ⟨hlo, hhi⟩
    exact ⟨j - lo, by omega, by omega⟩

theorem fifoLevel_toNat (n : Nat) : (fifoLevel n).toNat = min n 3 := by
  match n with
  | 0 | 1 | 2 => rfl
  | n + 3 =>
    rw [Nat.min_eq_right (Nat.le_add_left 3 n)]
    simp [fifoLevel]

namespace Spi

variable {p : Spi}

theorem statusWord_bits (p : Spi) {j : Nat} (hj : j < 32) :
    p.statusWord.getLsbD j =
      (p.rxne && decide (j = 0) || p.txe && decide (j = 1) || p.modf && decide (j = 5) || p.ovr && decide (j = 6) ||
        p.bsy && decide (j = 7) || !decide (j < 9) && (fifoLevel p.rxf.length).getLsbD (j - 9) ||
        !decide (j < 11) && (fifoLevel p.txf.length).getLsbD (j - 11)) := by
  have hlow (k : Nat) : j - k < 32 := Nat.lt_of_le_of_lt (Nat.sub_le j k) hj
  simp only [statusWord, BitVec.getLsbD_or, getLsbD_bitWord _ _ _ hj, BitVec.getLsbD_shiftLeft,
    BitVec.getLsbD_setWidth, hj, hlow, decide_true, Bool.true_and]

/-- The flags of the status word, at the places R253 names; CRCERR is none of them (R262). -/
theorem statusWord_flags (p : Spi) :
    p.statusWord.getLsbD 0 = p.rxne ∧ p.statusWord.getLsbD 1 = p.txe ∧ p.statusWord.getLsbD 4 = false ∧
      p.statusWord.getLsbD 5 = p.modf ∧ p.statusWord.getLsbD 6 = p.ovr ∧ p.statusWord.getLsbD 7 = p.bsy := by
  refine ⟨?_, ?_, ?_, ?_, ?_, ?_⟩ <;>
  · rw [statusWord_bits p (by decide)]
    simp

theorem statusWord_frlvl (p : Spi) : p.statusWord.extractLsb' 9 2 = fifoLevel p.rxf.length := by
  refine BitVec.eq_of_getLsbD_eq fun j hj => ?_
  rw [BitVec.getLsbD_extractLsb', statusWord_bits p (by omega)]
  have h (k : Nat) (hk : k < 9) : 9 + j ≠ k := by omega
  have hlow : ¬9 + j < 9 := by omega
  have hhigh : 9 + j < 11 := by omega
  simp [hj, h, hlow, hhigh]

theorem statusWord_ftlvl (p : Spi) : p.statusWord.extractLsb' 11 2 = fifoLevel p.txf.length := by
  refine BitVec.eq_of_getLsbD_eq fun j hj => ?_
  rw [BitVec.getLsbD_extractLsb', statusWord_bits p (by omega)]
  have h (k : Nat) (hk : k < 9) : 11 + j ≠ k := by omega
  have hrx : (fifoLevel p.rxf.length).getLsbD (11 + j - 9) = false := BitVec.getLsbD_of_ge _ _ (by omega)
  have hlow : ¬11 + j < 11 := by omega
  simp [hj, h, hrx, hlow]

theorem statusWord_setsOnly (p : Spi) : SetsOnly p.statusWord ([0, 1, 5, 6, 7] ++ bitsFrom 9 12) := by
  refine (setsOnly_iff _ _).2 fun j hj hnot => ?_
  have hplace : (j ≠ 0 ∧ j ≠ 1 ∧ j ≠ 5 ∧ j ≠ 6 ∧ j ≠ 7) ∧ (j < 9 ∨ 13 ≤ j) := by
    simp only [List.mem_append, mem_bitsFrom, List.mem_cons, List.not_mem_nil, or_false] at hnot
    omega
  rw [statusWord_bits p hj]
  obtain ⟨⟨h0, h1, h5, h6, h7⟩, hlow | hhigh⟩ := hplace
  · have hlow' : j < 11 := by omega
    simp [*]
  · have hrx : (fifoLevel p.rxf.length).getLsbD (j - 9) = false := BitVec.getLsbD_of_ge _ _ (by omega)
    have htx : (fifoLevel p.txf.length).getLsbD (j - 11) = false := BitVec.getLsbD_of_ge _ _ (by omega)
    simp [*]

/-! ### What a read of SR or DR leaves (R254, R256) -/

/-- A flag is set when the bit is, and otherwise stays. -/
theorem or_eq_ite (a b : Bool) : (a || b) = if b then true else a := by
  cases b <;> simp

theorem afterSrRead_eq (p : Spi) : p.afterSrRead = { p with
    ovr := if p.ovrSeq then false else p.ovr
    ovrSeq := false
    modfSeq := if p.modf then true else p.modfSeq } := by
  rw [afterSrRead, and_not_eq_ite, or_eq_ite]

theorem pop_eq (p : Spi) (k : Nat) : p.pop k = { p with
    rxf := p.rxf.drop k, ovrSeq := if p.ovr then true else p.ovrSeq } := by
  rw [pop, or_eq_ite]

/-- A frame of more than 8 bits is two bytes (R251). -/
theorem wideFrame_eq (p : Spi) : p.wideFrame = decide (8 ≤ (SpiCr2.ds p.cr2).toNat) := by
  rw [wideFrame, frameBytes, frameBits, decide_eq_decide]
  split_ifs <;> omega

end Spi

open Spi in
/-- Settles O49: CR1 and CR2 read as they are; what a read of SR answers is known bit by bit, and what it leaves is
R254's. -/
theorem spiReads : Obligations.SpiReads := by
  unfold Obligations.SpiReads
  refine fun s => ⟨rfl, rfl, s.spi.statusWord, ?_, ?_⟩
  · rw [← afterSrRead_eq]
    rfl
  obtain ⟨hrxne, htxe, hcrcerr, hmodf, hovr, hbsy⟩ := statusWord_flags s.spi
  refine ⟨fun hth => hrxne.trans (if_pos hth), fun hth => hrxne.trans (if_neg (Bool.eq_false_iff.1 hth)), htxe,
    hcrcerr, hmodf, hovr, hbsy, ?_, ?_, statusWord_setsOnly s.spi⟩
  · rw [statusWord_frlvl, fifoLevel_toNat]
  · rw [statusWord_ftlvl, fifoLevel_toNat]

/-! ### DR (R255, R256) -/

namespace Spi

variable {p : Spi}

theorem push8_wide (h : p.wideFrame = true) (v : Byte) : p.push8 v = .refused .widthVsFrame := refuseIf_bad h _ _

theorem push8_full (hw : p.wideFrame = false) (h : 4 ≤ p.txf.length) (v : Byte) :
    p.push8 v = .refused .txFifoOverflow :=
  (refuseIf_good hw _ _).trans (refuseIf_bad (decide_eq_true (Nat.lt_succ_of_le h)) _ _)

theorem push8_room (hw : p.wideFrame = false) (h : p.txf.length < 4) (v : Byte) :
    p.push8 v = .next { p with txf := p.txf ++ [v] } :=
  (push8_next _ _ _).2 ⟨of_decide_eq_false hw, h, rfl⟩

theorem push16_full (h : 3 ≤ p.txf.length) (v : BitVec 16) : p.push16 v = .refused .txFifoOverflow :=
  refuseIf_bad (decide_eq_true (by omega)) _ _

theorem push16_room (h : p.txf.length ≤ 2) (v : BitVec 16) :
    p.push16 v = .next { p with txf := p.txf ++ [v.extractLsb' 0 8, v.extractLsb' 8 8] } :=
  (push16_next _ _ _).2 ⟨by omega, rfl⟩

end Spi

section DrRead

variable {s : State}

theorem exec_rd8SpiDr_wide (h : s.spi.wideFrame = true) : exec .rd8SpiDr s = .refused .widthVsFrame :=
  refuseIf_bad h _ _

theorem exec_rd8SpiDr_empty (hw : s.spi.wideFrame = false) (h : s.spi.rxf = []) :
    exec .rd8SpiDr s = .refused .rxFifoUnderflow :=
  (refuseIf_good hw _ _).trans (refuseIf_bad (by rw [h]; rfl) _ _)

theorem exec_rd8SpiDr_next (hw : s.spi.wideFrame = false) {a : Byte} {rest : List Byte} (h : s.spi.rxf = a :: rest) :
    exec .rd8SpiDr s = .next ((s.setSpi (s.spi.pop 1)).respond (a.setWidth 32)) := by
  refine (refuseIf_good hw _ _).trans ((refuseIf_good (by simp [h]) _ _).trans ?_)
  rw [Spi.front8, h]
  rfl

theorem exec_rd16SpiDr_short (h : s.spi.rxf.length < 2) : exec .rd16SpiDr s = .refused .rxFifoUnderflow :=
  refuseIf_bad (decide_eq_true h) _ _

theorem exec_rd16SpiDr_next {a b : Byte} {rest : List Byte} (h : s.spi.rxf = a :: b :: rest) :
    exec .rd16SpiDr s = .next ((s.setSpi (s.spi.pop 2)).respond ((b ++ a).setWidth 32)) := by
  refine (refuseIf_good (by simp [h]) _ _).trans ?_
  rw [Spi.front16, h]
  rfl

end DrRead

open Spi in
/-- Settles O50: the width is checked first and then the room or the bytes; an accepted access moves its bytes and
nothing else but OVR's sequence. -/
theorem spiDrAccesses : Obligations.SpiDrAccesses := by
  unfold Obligations.SpiDrAccesses
  intro s
  have hwide : 8 ≤ (SpiCr2.ds s.spi.cr2).toNat → s.spi.wideFrame = true := fun h => by
    rw [wideFrame_eq, decide_eq_true h]
  have hnarrow : (SpiCr2.ds s.spi.cr2).toNat < 8 → s.spi.wideFrame = false := fun h => by
    rw [wideFrame_eq, decide_eq_false h.not_ge]
  refine ⟨fun v => ⟨fun hds => ?_, fun hds hfull => ?_, fun hds hroom => ?_⟩,
    fun v => ⟨fun hfull => ?_, fun hroom => ?_⟩, fun hds => exec_rd8SpiDr_wide (hwide hds),
    fun hds hempty => exec_rd8SpiDr_empty (hnarrow hds) hempty, fun hds a rest hrxf => ?_, exec_rd16SpiDr_short,
    fun a b rest hrxf => ?_⟩
  · exact congrArg s.onSpi (push8_wide (hwide hds) v)
  · exact congrArg s.onSpi (push8_full (hnarrow hds) hfull v)
  · exact congrArg s.onSpi (push8_room (hnarrow hds) hroom v)
  · exact congrArg s.onSpi (push16_full hfull v)
  · exact congrArg s.onSpi (push16_room hroom v)
  · rw [exec_rd8SpiDr_next (hnarrow hds) hrxf, pop_eq, hrxf]
    rfl
  · rw [exec_rd16SpiDr_next hrxf, pop_eq, hrxf]
    rfl

end Sys2Proof.Machine
end

section
/-! PROOF. What an operation can do to the SPI, and the clearing sequences of OVR and MODF (43_spi.md R268). -/

namespace Sys2Proof.Machine

/-! ### An outcome seen from the SPI -/

/-- If the outcome is a next state, its SPI satisfies `P`. -/
def SpiThen (P : Spi → Prop) (o : Out) : Prop := ∀ t, o = .next t → P t.spi

namespace SpiThen

variable {P : Spi → Prop} {s t : State} {o : Out}

theorem next (h : P t.spi) : SpiThen P (.next t) := by
  intro t' ht
  rw [← (next_inj _ _).1 ht]
  exact h

theorem onUsart (h : P s.spi) (o : OutcomeOf Usart) : SpiThen P (s.onUsart o) := by
  intro t ht
  obtain ⟨u, -, rfl⟩ := (onUsart_next _ _ _).1 ht
  exact h

theorem onI2c (h : P s.spi) (o : OutcomeOf I2c) : SpiThen P (s.onI2c o) := by
  intro t ht
  obtain ⟨c, -, rfl⟩ := (onI2c_next _ _ _).1 ht
  exact h

theorem onNvic (h : P s.spi) (o : OutcomeOf Nvic) : SpiThen P (s.onNvic o) := by
  intro t ht
  obtain ⟨n, -, rfl⟩ := (onNvic_next _ _ _).1 ht
  exact h

theorem onSpi {o : OutcomeOf Spi} (h : ∀ p, o = .next p → P p) : SpiThen P (s.onSpi o) := by
  intro t ht
  obtain ⟨p, hp, rfl⟩ := (onSpi_next _ _ _).1 ht
  exact h p hp

theorem onSpi_next {p : Spi} (h : P p) : SpiThen P (s.onSpi (.next p)) := next h

theorem refuseIf (h : SpiThen P o) (bad : Bool) (r : Refusal) : SpiThen P (refuseIf bad r o) :=
  fun t ht => h t ((refuseIf_next _ _ _ _).1 ht).2

theorem busWrite {write : Word → Out} (h : ∀ w, SpiThen P (write w)) (r : Reg) (v : Word) :
    SpiThen P (s.busWrite r v write) :=
  fun t ht => h _ t ((busWrite_next _ _ _ _ _).1 ht).2

theorem whenEnabled (hs : P s.spi) (h : SpiThen P o) (e : Bool) : SpiThen P (whenEnabled e s o) := by
  intro t ht
  rcases (whenEnabled_next _ _ _ _).1 ht with ⟨-, rfl⟩ | ⟨-, ho⟩
  · exact hs
  · exact h t ho

/-- An operation of another sub-block leaves the SPI as it is (R87). -/
theorem of_other {i : Instr} (hi : subBlock i ≠ .spi) (h : P s.spi) : SpiThen P (exec i s) := by
  cases i with
  | rdUsartCr1 | rdUsartCr2 | rdUsartBrr | rdUsartRtor | rdUsartIsr | rdUsartIcr | rdUsartRdr | rdUsartTdr
  | rdI2cCr1 | rdI2cCr2 | rdI2cTimingr | rdI2cIsr | rdI2cIcr | rdI2cRxdr | rdI2cTxdr => exact next h
  | wrUsartCr1 | wrUsartCr2 | wrUsartBrr | wrUsartRtor | wrUsartIcr | wrUsartTdr =>
    exact busWrite (fun _ => onUsart h _) _ _
  | wrI2cCr1 | wrI2cCr2 | wrI2cTimingr | wrI2cIcr | wrI2cTxdr => exact busWrite (fun _ => onI2c h _) _ _
  | rdNvicIser | rdNvicIpr =>
    refine refuseIf (next ?_) _ _
    exact h
  | wrNvicIser | wrNvicIpr | evNvicPend => exact refuseIf (onNvic h _) _ _
  | evUsartClk | evUsartTick => exact whenEnabled h (onUsart h _) _
  | evI2cStart | evI2cAddr | evI2cTxByte | evI2cRxByte | evI2cStop | evI2cBusFree =>
    exact whenEnabled h (onI2c h _) _
  | rdSpiCr1 | wrSpiCr1 | rdSpiCr2 | wrSpiCr2 | rdSpiSr | rd8SpiDr | rd16SpiDr | wr8SpiDr | wr16SpiDr | evSpiLoad
  | evSpiBit | evSpiModf => exact absurd rfl hi

end SpiThen

/-! ### The sequences through each operation of the SPI (R268) -/

namespace Spi

/-- No sequence begun by `p` is cancelled on the way to `q`, but by the operation that completes it. -/
structure SequencesGoOn (i : Instr) (p q : Spi) : Prop where
  ovr : p.ovrSeq = true → i ≠ .rdSpiSr → q.ovrSeq = true
  modf : p.modfSeq = true → (∀ v, i ≠ .wrSpiCr1 v) → q.modfSeq = true

variable {p q : Spi}

theorem SequencesGoOn.of_eq (i : Instr) (hovr : q.ovrSeq = p.ovrSeq) (hmodf : q.modfSeq = p.modfSeq) :
    SequencesGoOn i p q :=
  ⟨fun h _ => hovr.trans h, fun h _ => hmodf.trans h⟩

/-- An accepted write of CR1 completes MODF's sequence and leaves OVR's as it is. -/
theorem writeCr1_sequences {v : Word} (h : p.writeCr1 v = .next q) :
    q.ovrSeq = p.ovrSeq ∧ q.modf = (p.modf && !p.modfSeq) ∧ q.modfSeq = false := by
  obtain ⟨-, -, -, rfl⟩ := (writeCr1_next _ _ _).1 h
  split_ifs <;> exact ⟨rfl, rfl, rfl⟩

theorem afterSrRead_modfSeq (h : p.modfSeq = true) : p.afterSrRead.modfSeq = true := by
  rw [afterSrRead, h, Bool.true_or]

theorem sBit_sequences (p : Spi) (miso : Bool) :
    (p.sBit miso).ovrSeq = p.ovrSeq ∧ (p.sBit miso).modfSeq = p.modfSeq :=
  ⟨(congrArg ovrSeq (sBit_frame p miso)).trans rfl, (congrArg modfSeq (sBit_frame p miso)).trans rfl⟩

theorem sModf_sequences (p : Spi) (nssIn : Bool) :
    (p.sModf nssIn).ovrSeq = p.ovrSeq ∧ (p.sModf nssIn).modfSeq = p.modfSeq := by
  unfold sModf
  split_ifs <;> exact ⟨rfl, rfl⟩

theorem pop_sequencesGoOn (i : Instr) (p : Spi) (k : Nat) : SequencesGoOn i p (p.pop k) :=
  ⟨fun h _ => by rw [pop, h, Bool.true_or], fun h _ => h⟩

/-- Only a read of SR ends OVR's sequence and only a write of CR1 ends MODF's. -/
theorem exec_sequencesGoOn (i : Instr) (s : State) : SpiThen (SequencesGoOn i s.spi) (exec i s) := by
  have hsame : SequencesGoOn i s.spi s.spi := .of_eq i rfl rfl
  by_cases hi : subBlock i = .spi
  case neg => exact .of_other hi hsame
  cases i with
  | rdSpiCr1 | rdSpiCr2 => exact .next hsame
  | rdSpiSr => exact .next ⟨fun _ h => absurd rfl h, fun h _ => afterSrRead_modfSeq h⟩
  | rd8SpiDr => exact .refuseIf (.refuseIf (.next (pop_sequencesGoOn _ _ 1)) _ _) _ _
  | rd16SpiDr => exact .refuseIf (.next (pop_sequencesGoOn _ _ 2)) _ _
  | wrSpiCr1 v =>
    refine .busWrite (fun w => .onSpi fun q hq => ?_) _ _
    exact ⟨fun h _ => (writeCr1_sequences hq).1.trans h, fun _ h => absurd rfl (h v)⟩
  | wrSpiCr2 =>
    refine .busWrite (fun w => .onSpi fun q hq => ?_) _ _
    obtain ⟨-, -, rfl⟩ := (writeCr2_next _ _ _).1 hq
    exact .of_eq _ rfl rfl
  | wr8SpiDr =>
    refine .onSpi fun q hq => ?_
    obtain ⟨-, -, rfl⟩ := (push8_next _ _ _).1 hq
    exact .of_eq _ rfl rfl
  | wr16SpiDr =>
    refine .onSpi fun q hq => ?_
    obtain ⟨-, rfl⟩ := (push16_next _ _ _).1 hq
    exact .of_eq _ rfl rfl
  | evSpiLoad => exact .whenEnabled hsame (.onSpi_next (p := s.spi.sLoad) (.of_eq _ rfl rfl)) _
  | evSpiBit m =>
    obtain ⟨hovr, hmodf⟩ := sBit_sequences s.spi m
    exact .whenEnabled hsame (.onSpi_next (.of_eq _ hovr hmodf)) _
  | evSpiModf nssIn =>
    obtain ⟨hovr, hmodf⟩ := sModf_sequences s.spi nssIn
    exact .whenEnabled hsame (.onSpi_next (.of_eq _ hovr hmodf)) _
  | _ => cases hi

/-- A read of DR with OVR = 1 begins OVR's sequence. -/
theorem exec_dr_begins {i : Instr} (hi : i = .rd8SpiDr ∨ i = .rd16SpiDr) {s : State} (hovr : s.spi.ovr = true) :
    SpiThen (fun q => q.ovrSeq = true) (exec i s) := by
  have hpop (k : Nat) : (s.spi.pop k).ovrSeq = true := by rw [pop, hovr, Bool.or_true]
  rcases hi with rfl | rfl
  · exact .refuseIf (.refuseIf (.next (hpop 1)) _ _) _ _
  · exact .refuseIf (.next (hpop 2)) _ _

theorem exec_wrSpiCr1_completes {s : State} (hseq : s.spi.modfSeq = true) (v : Word) :
    SpiThen (fun q => q.modf = false ∧ q.modfSeq = false) (exec (.wrSpiCr1 v) s) := by
  refine .busWrite (fun w => .onSpi fun q hq => ?_) _ _
  obtain ⟨-, hmodf, hend⟩ := writeCr1_sequences hq
  exact ⟨by rw [hmodf, hseq, Bool.not_true, Bool.and_false], hend⟩

theorem exec_rdSpiSr_next {s t : State} (h : exec .rdSpiSr s = .next t) :
    t = (s.setSpi s.spi.afterSrRead).busRead .spiSr s.spi.statusWord := ((next_inj _ _).1 h).symm

end Spi

open Spi in
/-- Settles O55: a read of DR begins OVR's sequence and a read of SR MODF's; no other operation cancels one begun, and
the operation that completes it clears the flag. -/
theorem spiClearingSequences : Obligations.SpiClearingSequences := by
  unfold Obligations.SpiClearingSequences
  intro i s t h
  obtain ⟨hovr, hmodf⟩ := exec_sequencesGoOn i s t h
  refine ⟨fun hset hi => exec_dr_begins hi hset t h, hovr, ?_, ?_, hmodf, ?_, ?_⟩
  · rintro hseq rfl
    rw [exec_rdSpiSr_next h, afterSrRead_eq, if_pos hseq]
    exact ⟨rfl, rfl⟩
  · rintro hset rfl
    rw [exec_rdSpiSr_next h, afterSrRead_eq, if_pos hset]
    rfl
  · rintro hseq ⟨v, rfl⟩
    exact exec_wrSpiCr1_completes hseq v t h
  · rintro rfl
    obtain ⟨-, -, hcrcerr, -⟩ := statusWord_flags s.spi
    rw [exec_rdSpiSr_next h]
    exact ⟨hcrcerr, rfl⟩

end Sys2Proof.Machine
end

section
/-! PROOF. Which line the NVIC decoder presents (44_nvic.md R306). -/

namespace Sys2Proof.Machine.Nvic

/-! ### The registers of a line (R301) -/

theorem enabled_eq_getElem (v : Nvic) {i : Nat} {r : Fin 16} (hr : r.val = i / 32) :
    v.enabled i = v.iser[r].getLsbD (i % 32) := by
  rw [enabled, ← hr, Vector.getElem?_eq_getElem r.isLt]
  rfl

theorem priority_eq_getElem (v : Nvic) {i : Nat} (hi : i < 512) : v.priority i = v.ipr[i] := by
  rw [priority, Vector.getElem?_eq_getElem hi]
  rfl

theorem pending_eq_getElem (v : Nvic) {i : Nat} (hi : i < 512) : v.pending i = v.pend[i] := by
  rw [pending, Vector.getElem?_eq_getElem hi]
  rfl

/-! ### The order of presentation -/

/-- Line `m` is presented before line `n`: the smaller priority byte, among equals the smaller index. -/
def Precedes (v : Nvic) (m n : Nat) : Prop :=
  (v.priority m).toNat < (v.priority n).toNat ∨ v.priority m = v.priority n ∧ m ≤ n

/-- Line `m` is a candidate below `k`, and none of those is presented before it. -/
structure IsFirstBelow (p : Params) (v : Nvic) (k m : Nat) : Prop where
  below : m < k
  candidate : v.candidate p m = true
  precedes : ∀ n < k, v.candidate p n = true → v.Precedes m n

variable {p : Params} {v : Nvic} {k m n : Nat}

theorem precedes_of_le (hpriority : (v.priority m).toNat ≤ (v.priority n).toNat) (hindex : m ≤ n) : v.Precedes m n :=
  hpriority.lt_or_eq.imp_right fun heq => ⟨BitVec.eq_of_toNat_eq heq, hindex⟩

theorem Precedes.toNat_le (h : v.Precedes m n) : (v.priority m).toNat ≤ (v.priority n).toNat :=
  h.elim Nat.le_of_lt fun ⟨heq, _⟩ => (congrArg BitVec.toNat heq).le

theorem Precedes.antisymm (hmn : v.Precedes m n) (hnm : v.Precedes n m) : m = n := by
  rcases hmn with hlt | ⟨heq, hle⟩
  · exact absurd hnm.toNat_le (Nat.not_le.2 hlt)
  · rcases hnm with hlt | ⟨-, hge⟩
    · rw [heq] at hlt
      exact absurd hlt (Nat.lt_irrefl _)
    · exact Nat.le_antisymm hle hge

/-! ### What the selection finds -/

/-- The first line stays the first when the next one is not presented before it. -/
theorem IsFirstBelow.succ (h : IsFirstBelow p v k m) (hk : v.candidate p k = true → v.Precedes m k) :
    IsFirstBelow p v (k + 1) m where
  below := Nat.lt_succ_of_lt h.below
  candidate := h.candidate
  precedes := Nat.forall_lt_succ_right.2 ⟨h.precedes, hk⟩

theorem isFirstBelow_last (hk : v.candidate p k = true) (h : ∀ n < k, v.candidate p n = true → v.Precedes k n) :
    IsFirstBelow p v (k + 1) k where
  below := Nat.lt_succ_self k
  candidate := hk
  precedes := Nat.forall_lt_succ_right.2 ⟨h, fun _ => precedes_of_le le_rfl le_rfl⟩

theorem bestBelow_cases (p : Params) (v : Nvic) (k : Nat) :
    (v.bestBelow p k = none ∧ ∀ n < k, v.candidate p n = false) ∨
      ∃ m, v.bestBelow p k = some m ∧ IsFirstBelow p v k m := by
  induction k with
  | zero => exact .inl ⟨rfl, fun n hn => absurd hn n.not_lt_zero⟩
  | succ k ih =>
    rw [bestBelow]
    cases hk : v.candidate p k with
    | false =>
      rw [if_neg Bool.false_ne_true]
      refine ih.imp ?_ ?_
      · rintro ⟨hnone, hno⟩
        exact ⟨hnone, Nat.forall_lt_succ_right.2 ⟨hno, hk⟩⟩
      · rintro ⟨m, hsome, hfirst⟩
        exact ⟨m, hsome, hfirst.succ fun h => absurd h (Bool.eq_false_iff.1 hk)⟩
    | true =>
      rw [if_pos rfl]
      right
      obtain ⟨hnone, hno⟩ | ⟨m, hsome, hfirst⟩ := ih
      · rw [hnone]
        exact ⟨k, rfl, isFirstBelow_last hk fun n hn h => absurd h (Bool.eq_false_iff.1 (hno n hn))⟩
      · rw [hsome]
        by_cases hlt : (v.priority k).toNat < (v.priority m).toNat
        · exact ⟨k, if_pos hlt, isFirstBelow_last hk fun n hn h =>
            .inl (Nat.lt_of_lt_of_le hlt (hfirst.precedes n hn h).toNat_le)⟩
        · exact ⟨m, if_neg hlt, hfirst.succ fun _ => precedes_of_le (Nat.not_lt.1 hlt) hfirst.below.le⟩

/-! ### The candidates (R306) -/

theorem candidate_iff : v.candidate p n = true ↔ n < p.nLines ∧ v.pending n = true ∧ v.enabled n = true := by
  simp [candidate, and_assoc]

/-- Only a line that has an input is a candidate. -/
theorem lt_of_candidate (h : v.candidate p n = true) : n < 512 := by
  obtain ⟨-, hpending, -⟩ := candidate_iff.1 h
  by_contra hn
  rw [pending, Vector.getElem?_eq_none (Nat.not_lt.1 hn)] at hpending
  cases hpending

theorem candidate_fin_iff (i : Fin 512) : v.candidate p i = true ↔
    i.val < p.nLines ∧ v.pend[i] = true ∧ (v.iser[i.val / 32]?.getD 0#32).getLsbD (i.val % 32) = true := by
  rw [candidate_iff, pending_eq_getElem v i.isLt, enabled]
  rfl

theorem precedes_fin_iff (i j : Fin 512) : v.Precedes i j ↔
    v.ipr[i].toNat < v.ipr[j].toNat ∨ v.ipr[i] = v.ipr[j] ∧ i ≤ j := by
  rw [Precedes, priority_eq_getElem v i.isLt, priority_eq_getElem v j.isLt, Fin.le_def]
  rfl

theorem irqReq_iff : v.irqReq p = true ↔ ∃ i : Fin 512, v.candidate p i = true := by
  rw [irqReq, best]
  obtain ⟨hnone, hno⟩ | ⟨m, hsome, hfirst⟩ := bestBelow_cases p v p.nLines
  · rw [hnone]
    refine iff_of_false Bool.false_ne_true fun ⟨i, hi⟩ => ?_
    exact Bool.eq_false_iff.1 (hno i (candidate_iff.1 hi).1) hi
  · rw [hsome]
    exact iff_of_true rfl ⟨⟨m, lt_of_candidate hfirst.candidate⟩, hfirst.candidate⟩

theorem irqLine_toNat {i : Fin 512} (hcand : v.candidate p i = true)
    (hfirst : ∀ j : Fin 512, v.candidate p j = true → v.Precedes i j) (k : Nat) : (v.irqLine p k).toNat = i := by
  have hi : i.val < p.nLines := (candidate_iff.1 hcand).1
  rw [irqLine, best]
  obtain ⟨-, hno⟩ | ⟨m, hsome, hm⟩ := bestBelow_cases p v p.nLines
  · exact absurd hcand (Bool.eq_false_iff.1 (hno i hi))
  · obtain rfl : m = i :=
      (hm.precedes i hi hcand).antisymm (hfirst ⟨m, lt_of_candidate hm.candidate⟩ hm.candidate)
    rw [hsome]
    exact Nat.mod_eq_of_lt i.isLt

end Sys2Proof.Machine.Nvic

namespace Sys2Proof.Machine

/-- Settles O58: the selection finds the candidate that precedes all others, and two lines that precede each other
are the same. -/
theorem nvicOutputs : Obligations.NvicOutputs := by
  unfold Obligations.NvicOutputs
  intro p v
  simp only [← Nvic.candidate_fin_iff, ← Nvic.precedes_fin_iff]
  exact ⟨Nvic.irqReq_iff, fun _ => Nvic.irqLine_toNat⟩

end Sys2Proof.Machine
end

section
/-! PROOF. What a line's registers answer and keep (44_nvic.md R302 to R305, R307), and the driver that writes them
(R309). -/

namespace Sys2Proof.Machine

/-! ### What a priority cell keeps (R304) -/

theorem keepPriority_eq_ofNat (bits : Nat) (v : Byte) :
    keepPriority bits v = BitVec.ofNat 8 (v.toNat / 2 ^ (8 - bits) * 2 ^ (8 - bits)) := by
  apply BitVec.eq_of_toNat_eq
  rw [keepPriority, BitVec.toNat_shiftLeft, BitVec.toNat_ushiftRight, Nat.shiftRight_eq_div_pow, Nat.shiftLeft_eq,
    BitVec.toNat_ofNat]

/-- A cell whose low bits read as zero holds a multiple of the unit of priority. -/
theorem NvicInv.toNat_mod {p : Params} {v : Nvic} (h : NvicInv p v) (n : Nat) :
    (v.priority n).toNat % 2 ^ (8 - p.prioBits) = 0 := by
  apply Nat.eq_of_testBit_eq
  intro j
  rw [Nat.testBit_mod_two_pow, Nat.zero_testBit, ← BitVec.getLsbD]
  by_cases hj : j < 8 - p.prioBits
  · rw [h.lowBitsZero n j hj, Bool.and_false]
  · rw [decide_eq_false hj, Bool.false_and]

/-! ### An index in range and one past the last (R307) -/

section Accesses

variable {s : State} {r : BitVec 4} {n : BitVec 9}

theorem exec_iser_refused (h : s.params.nIser ≤ r.toNat) (v : Word) :
    exec (.rdNvicIser r) s = .refused .indexOutOfRange ∧ exec (.wrNvicIser r v) s = .refused .indexOutOfRange :=
  ⟨refuseIf_bad (decide_eq_true h) _ _, refuseIf_bad (decide_eq_true h) _ _⟩

theorem exec_ipr_refused (h : s.params.nLines ≤ n.toNat) (v : Byte) :
    exec (.rdNvicIpr n) s = .refused .indexOutOfRange ∧ exec (.wrNvicIpr n v) s = .refused .indexOutOfRange :=
  ⟨refuseIf_bad (decide_eq_true h) _ _, refuseIf_bad (decide_eq_true h) _ _⟩

theorem exec_rdNvicIser (h : r.toNat < s.params.nIser) :
    exec (.rdNvicIser r) s = .next (s.respond (s.nvic.iser[r.toNat]?.getD 0#32)) :=
  refuseIf_good (decide_eq_false (Nat.not_le.2 h)) _ _

theorem exec_wrNvicIser (h : r.toNat < s.params.nIser) (v : Word) :
    exec (.wrNvicIser r v) s = .next (s.setNvic (s.nvic.setEnables r.toNat v)) :=
  refuseIf_good (decide_eq_false (Nat.not_le.2 h)) _ _

theorem exec_rdNvicIpr (h : n.toNat < s.params.nLines) :
    exec (.rdNvicIpr n) s = .next (s.respond ((s.nvic.priority n.toNat).setWidth 32)) :=
  refuseIf_good (decide_eq_false (Nat.not_le.2 h)) _ _

theorem exec_wrNvicIpr (h : n.toNat < s.params.nLines) (v : Byte) :
    exec (.wrNvicIpr n v) s = .next (s.setNvic (s.nvic.setPriority s.params.prioBits n.toNat v)) :=
  refuseIf_good (decide_eq_false (Nat.not_le.2 h)) _ _

end Accesses

/-! ### What a write leaves in each register -/

namespace Nvic

variable (v : Nvic)

theorem iser_setEnables (r : Nat) (w : Word) (k : Fin 16) :
    (v.setEnables r w).iser[k] = if k.val = r then v.iser[k] ||| w else v.iser[k] := by
  by_cases h : k.val = r
  · subst h
    simp [setEnables]
  · simp [setEnables, h, Ne.symm h]

theorem ipr_setPriority (bits line : Nat) (w : Byte) (k : Fin 512) :
    (v.setPriority bits line w).ipr[k] = if k.val = line then keepPriority bits w else v.ipr[k] := by
  by_cases h : k.val = line
  · subst h
    simp [setPriority]
  · simp [setPriority, h, Ne.symm h]

end Nvic

/-- Settles O56: the index is checked first; then a read answers its register, and a write changes that register
alone. -/
theorem nvicAccesses : Obligations.NvicAccesses := by
  unfold Obligations.NvicAccesses
  refine fun s => ⟨fun r v => ⟨fun h => exec_iser_refused h v, fun h => ⟨?_, _, exec_wrNvicIser h v, ?_⟩⟩,
    fun n v => ⟨fun h => exec_ipr_refused h v, fun h => ⟨?_, fun hinv => ?_, _, exec_wrNvicIpr h v, ?_⟩⟩⟩
  · rw [exec_rdNvicIser h, Vector.getElem?_eq_getElem r.isLt]
    rfl
  · exact s.nvic.iser_setEnables r.toNat v
  · rw [exec_rdNvicIpr h, s.nvic.priority_eq_getElem n.isLt]
    rfl
  · rw [← s.nvic.priority_eq_getElem n.isLt]
    exact hinv.toNat_mod n.toNat
  · rw [← keepPriority_eq_ofNat]
    exact s.nvic.ipr_setPriority s.params.prioBits n.toNat v

/-! ### The driver (R309) -/

/-- A program of one write. -/
theorem run_write_done {α : Type} {i : Instr} {s t : State} (h : exec i s = .next t) (a : α) :
    (HostProg.write i (.done a)).run [] s = .next (a, t) := by
  simp [HostProg.run, h]

/-- The word that `enable` writes to ISER[i / 32] stands for line `i` alone (R301). -/
theorem enableWord_selects_line (i j : Nat) :
    (decide (j / 32 = i / 32) && (1#32 <<< (i % 32)).getLsbD (j % 32)) = decide (j = i) := by
  have hbit : (1#32 <<< (i % 32)).getLsbD (j % 32) = decide (j % 32 = i % 32) := by
    rw [← BitVec.twoPow_eq, BitVec.getLsbD_twoPow, decide_eq_true (Nat.mod_lt i (by decide)), Bool.true_and,
      decide_eq_decide]
    exact eq_comm
  rw [hbit, ← Bool.decide_and, decide_eq_decide]
  omega

section Driver

variable {s : State} {i : Nat}

theorem nvicEnable_run (hvalid : ParamsValid s.params) (hi : i < s.params.nLines) :
    (nvicEnable s.params i).run [] s =
      .next (some (), s.setNvic (s.nvic.setEnables (i / 32) (1#32 <<< (i % 32)))) := by
  obtain ⟨hwhole, hfield, -, -⟩ := hvalid
  have hindex : (BitVec.ofNat 4 (i / 32)).toNat = i / 32 := Nat.mod_eq_of_lt (by omega)
  have hwrite := exec_wrNvicIser (s := s) (r := BitVec.ofNat 4 (i / 32)) (by omega) (1#32 <<< (i % 32))
  rw [nvicEnable, if_neg (Nat.not_le.2 hi), run_write_done hwrite, hindex]

theorem nvicSetPriority_run (hvalid : ParamsValid s.params) (hi : i < s.params.nLines) (priority sub : Byte) :
    (nvicSetPriority s.params i priority sub).run [] s = .next (some (), s.setNvic
      (s.nvic.setPriority s.params.prioBits i (priorityByte s.params priority sub))) := by
  obtain ⟨hwhole, hfield, -, -⟩ := hvalid
  have hindex : (BitVec.ofNat 9 i).toNat = i := Nat.mod_eq_of_lt (by omega)
  have hwrite := exec_wrNvicIpr (s := s) (n := BitVec.ofNat 9 i) (by omega) (priorityByte s.params priority sub)
  rw [nvicSetPriority, if_neg (Nat.not_le.2 hi), run_write_done hwrite, hindex]

end Driver

/-- Settles O59: a line in range is in its index field, and a line is the pair of its register and its bit. -/
theorem nvicDriverReachesTheLine : Obligations.NvicDriverReachesTheLine := by
  unfold Obligations.NvicDriverReachesTheLine
  refine ⟨fun v i r hr => ⟨v.enabled_eq_getElem hr, v.priority_eq_getElem i.isLt⟩, by decide,
    fun s i priority sub hvalid => ⟨fun h => ⟨if_pos h, if_pos h⟩, fun hi => ?_⟩⟩
  have hlines : i < 512 := by
    obtain ⟨hwhole, hfield, -, -⟩ := hvalid
    omega
  refine ⟨⟨_, nvicEnable_run hvalid hi, fun j => ?_⟩, _, nvicSetPriority_run hvalid hi priority sub, fun j => ?_⟩
  · rw [State.setNvic_nvic, Nvic.enabled_setEnables _ _ _ _ (by omega), enableWord_selects_line]
  · rw [State.setNvic_nvic, Nvic.priority_setPriority _ _ _ _ _ hlines, keepPriority_eq_ofNat]
    rfl

end Sys2Proof.Machine
end

section
/-! PROOF. Decoding and encoding agree (30_encoding.md R100 to R107): the words a row of R104 covers are the words the
encoder writes for the operation the row makes, and so for the bytes of a row of R107. -/

namespace Sys2Proof

variable {cmd : Word} {p : Params} {l : Layout} {i : Instr}

/-! ### A field of a command word (R100) -/

/-- The bits of a field, taken out and put back. -/
theorem and_fieldMask (cmd mask : Word) (start len : Nat)
    (hmask : ∀ j < 32, mask.getLsbD j = decide (start ≤ j ∧ j < start + len)) :
    cmd &&& mask = (cmd.extractLsb' start len).setWidth 32 <<< start := by
  refine BitVec.eq_of_getLsbD_eq fun j hj => ?_
  rw [BitVec.getLsbD_and, hmask j hj, BitVec.getLsbD_shiftLeft, BitVec.getLsbD_setWidth, BitVec.getLsbD_extractLsb']
  by_cases hstart : start ≤ j
  · have hsub : start + (j - start) = j := by omega
    have hlen : j - start < len ↔ j < start + len := by omega
    have hword : j - start < 32 := by omega
    simp [hj, hstart, hsub, hlen, hword, Bool.and_comm]
  · simp [hstart]

/-- The offset is the low bits of a command word. -/
theorem command_eq_or (we : Bool) (sz : Width) (blk : Blk) (off : BitVec 12) :
    command we sz blk off = command we sz blk 0#12 ||| off.setWidth 32 := by
  refine BitVec.eq_of_getLsbD_eq fun j hj => ?_
  simp only [command, BitVec.getLsbD_or, BitVec.getLsbD_append, BitVec.getLsbD_setWidth]
  by_cases hoff : j < 12
  · simp [hoff, hj]
  · simp [hoff, BitVec.getLsbD_of_ge off j (by omega)]

theorem command_iserOff (we : Bool) (r : BitVec 4) :
    command we .w32 .nvicIser (iserOff r) = command we .w32 .nvicIser 0#12 ||| r.setWidth 32 <<< 2 := by
  rw [command_eq_or]
  revert r; decide +revert

theorem command_iprOff (we : Bool) (n : BitVec 9) :
    command we .w8 .nvicIpr (iprOff n) = command we .w8 .nvicIpr 0#12 ||| n.setWidth 32 := by
  have hoff : iprOff n = n.setWidth 12 := by simp [iprOff, BitVec.setWidth_eq_append]
  rw [command_eq_or, hoff, BitVec.setWidth_setWidth (by decide)]

@[simp] theorem iserField_command (we : Bool) (sz : Width) (blk : Blk) (r : BitVec 4) :
    iserField (command we sz blk (iserOff r)) = r := by
  have hfield (cmd : Word) : iserField cmd = (cmdOff cmd).extractLsb' 2 4 := by
    simp [iserField, cmdOff, BitVec.extractLsb'_extractLsb'_of_le]
  rw [hfield, cmdOff_command]
  revert r; decide

@[simp] theorem iprField_command (we : Bool) (sz : Width) (blk : Blk) (n : BitVec 9) :
    iprField (command we sz blk (iprOff n)) = n := by
  have hfield (cmd : Word) : iprField cmd = (cmdOff cmd).extractLsb' 0 9 := by
    simp [iprField, cmdOff, BitVec.extractLsb'_extractLsb'_of_le]
  rw [hfield, cmdOff_command]
  exact BitVec.extractLsb'_append_eq_right

/-- A covered command word is the pattern and what stands where the mask has no bit. -/
theorem eq_pattern_or_of_covers {row : BusRow} (h : row.covers cmd = true) :
    cmd = row.pattern ||| (cmd &&& ~~~row.mask) := by
  rw [← eq_of_beq h, ← BitVec.and_or_distrib_left, BitVec.or_not_self, BitVec.and_allOnes]

/-! ### What the rows of R104 encode -/

/-- Every operation a row makes is encoded by the command word the row covers and, for a write, the data word, and
the data word is no part of the check of its index. -/
structure BusRow.Encodes (l : Layout) (row : BusRow) : Prop where
  words : ∀ cmd wdata, row.covers cmd = true → dataFits (cmdSz cmd) wdata = true →
    encode l (row.build cmd wdata) = .bus (if cmdWe cmd then [cmd, wdata] else [cmd])
  index : ∀ p cmd wdata, (row.build cmd wdata).wf p = (row.build cmd 0#32).wf p

theorem eq_of_covers_command {c : Word} {build : Word → Word → Instr}
    (h : BusRow.covers ⟨0xFFFFFFFF#32, c, build⟩ cmd = true) : cmd = c := by
  have hmask : cmd &&& BitVec.allOnes 32 = c := eq_of_beq h
  rwa [BitVec.and_allOnes] at hmask

theorem encodes_read {sz : Width} {blk : Blk} {off : BitVec 12}
    (h : encode l i = readPacket sz blk off) : (BusRow.read sz blk off i).Encodes l where
  words cmd wdata hcovers _ := by
    obtain rfl := eq_of_covers_command hcovers
    rw [cmdWe_command]
    exact h
  index _ _ _ := rfl

theorem encodes_write {sz : Width} {blk : Blk} {off : BitVec 12} {build : Word → Instr}
    (h : ∀ wdata, dataFits sz.code wdata = true → encode l (build wdata) = writePacket sz blk off wdata)
    (hwf : ∀ p wdata, (build wdata).wf p = (build 0#32).wf p) : (BusRow.write sz blk off build).Encodes l where
  words cmd wdata hcovers hfits := by
    obtain rfl := eq_of_covers_command hcovers
    rw [cmdSz_command] at hfits
    rw [cmdWe_command]
    exact h wdata hfits
  index p _ wdata := hwf p wdata

/-- A data word that fits an access has its value in the bits of the access. -/
theorem setWidth_extractLsb'_of_fits {sz : Width} {wdata : Word} (h : dataFits sz.code wdata = true) {n : Nat}
    (hn : 8 * szBytes sz.code = n) : (wdata.extractLsb' 0 n).setWidth 32 = wdata := by
  have hlt : wdata.toNat < 2 ^ n := by simpa [dataFits, hn] using h
  refine BitVec.eq_of_toNat_eq ?_
  rw [BitVec.toNat_setWidth, BitVec.extractLsb'_toNat, Nat.shiftRight_zero, Nat.mod_eq_of_lt hlt,
    Nat.mod_eq_of_lt wdata.isLt]

theorem encodes_writeWord {blk : Blk} {off : BitVec 12} {build : Word → Instr}
    (h : ∀ wdata, encode l (build wdata) = writePacket .w32 blk off wdata)
    (hwf : ∀ p wdata, (build wdata).wf p = (build 0#32).wf p) : (BusRow.write .w32 blk off build).Encodes l :=
  encodes_write (fun wdata _ => h wdata) hwf

theorem usartRows_encode (l : Layout) : ∀ row ∈ usartRows l, row.Encodes l := by
  simp only [usartRows, List.forall_mem_cons]
  exact ⟨encodes_read rfl, encodes_writeWord (fun _ => rfl) fun _ _ => rfl, encodes_read rfl,
    encodes_writeWord (fun _ => rfl) fun _ _ => rfl, encodes_read rfl,
    encodes_writeWord (fun _ => rfl) fun _ _ => rfl, encodes_read rfl,
    encodes_writeWord (fun _ => rfl) fun _ _ => rfl, encodes_read rfl, encodes_read rfl,
    encodes_writeWord (fun _ => rfl) fun _ _ => rfl, encodes_read rfl, encodes_read rfl,
    encodes_writeWord (fun _ => rfl) fun _ _ => rfl, nofun⟩

theorem i2cRows_encode (l : Layout) : ∀ row ∈ i2cRows l, row.Encodes l := by
  simp only [i2cRows, List.forall_mem_cons]
  exact ⟨encodes_read rfl, encodes_writeWord (fun _ => rfl) fun _ _ => rfl, encodes_read rfl,
    encodes_writeWord (fun _ => rfl) fun _ _ => rfl, encodes_read rfl,
    encodes_writeWord (fun _ => rfl) fun _ _ => rfl, encodes_read rfl, encodes_read rfl,
    encodes_writeWord (fun _ => rfl) fun _ _ => rfl, encodes_read rfl, encodes_read rfl,
    encodes_writeWord (fun _ => rfl) fun _ _ => rfl, nofun⟩

theorem spiRows_encode (l : Layout) : ∀ row ∈ spiRows l, row.Encodes l := by
  have write {sz : Width} {n : Nat} {build : BitVec n → Instr} (hn : 8 * szBytes sz.code = n)
      (h : ∀ v, encode l (build v) = writePacket sz .spi l.spiDr.off (v.setWidth 32))
      (hwf : ∀ p v, (build v).wf p = true) :
      (BusRow.write sz .spi l.spiDr.off fun d => build (d.extractLsb' 0 n)).Encodes l :=
    encodes_write (fun wdata hfits => by rw [h, setWidth_extractLsb'_of_fits hfits hn]) fun p v => by rw [hwf, hwf]
  simp only [spiRows, List.forall_mem_cons]
  exact ⟨encodes_read rfl, encodes_writeWord (fun _ => rfl) fun _ _ => rfl, encodes_read rfl,
    encodes_writeWord (fun _ => rfl) fun _ _ => rfl, encodes_read rfl, encodes_read rfl, encodes_read rfl,
    write rfl (fun _ => rfl) fun _ _ => rfl, write rfl (fun _ => rfl) fun _ _ => rfl, nofun⟩

/-- A word that an ISER row covers accesses the enable register its index field names (R102). -/
theorem eq_command_of_iserRow {we : Bool} {build : Word → Word → Instr}
    (h : BusRow.covers ⟨0xFFFFFFC3#32, command we .w32 .nvicIser 0#12, build⟩ cmd = true) :
    cmd = command we .w32 .nvicIser (iserOff (iserField cmd)) := by
  rw [command_iserOff, iserField, ← and_fieldMask cmd (~~~0xFFFFFFC3#32) 2 4 (by decide)]
  exact eq_pattern_or_of_covers h

/-- A word that an IPR row covers accesses the priority cell of the line its index field names (R102). -/
theorem eq_command_of_iprRow {we : Bool} {build : Word → Word → Instr}
    (h : BusRow.covers ⟨0xFFFFFE00#32, command we .w8 .nvicIpr 0#12, build⟩ cmd = true) :
    cmd = command we .w8 .nvicIpr (iprOff (iprField cmd)) := by
  have hfield := and_fieldMask cmd (~~~0xFFFFFE00#32) 0 9 (by decide)
  rw [BitVec.shiftLeft_zero] at hfield
  rw [command_iprOff, iprField, ← hfield]
  exact eq_pattern_or_of_covers h

theorem nvicRows_encode (l : Layout) : ∀ row ∈ nvicRows, row.Encodes l := by
  simp only [nvicRows, List.forall_mem_cons]
  refine ⟨⟨fun cmd wdata h _ => ?_, fun _ _ _ => rfl⟩, ⟨fun cmd wdata h _ => ?_, fun _ _ _ => rfl⟩,
    ⟨fun cmd wdata h _ => ?_, fun _ _ _ => rfl⟩, ⟨fun cmd wdata h hfits => ?_, fun _ _ _ => rfl⟩, nofun⟩
  · rw [eq_command_of_iserRow (we := false) h]
    simp [encode, readPacket]
  · rw [eq_command_of_iserRow (we := true) h]
    simp [encode, writePacket]
  · rw [eq_command_of_iprRow (we := false) h]
    simp [encode, readPacket]
  · rw [eq_command_of_iprRow (we := true) h] at hfits ⊢
    rw [cmdSz_command] at hfits
    have hdata : (wdata.extractLsb' 0 8).setWidth 32 = wdata := setWidth_extractLsb'_of_fits hfits rfl
    simp [encode, writePacket, hdata]

theorem busRows_encode (l : Layout) : ∀ row ∈ busRows l, row.Encodes l := by
  simp only [busRows, List.forall_mem_append]
  exact ⟨⟨⟨usartRows_encode l, i2cRows_encode l⟩, spiRows_encode l⟩, nvicRows_encode l⟩

/-- What decodes is made by a row that covers the command word, of it and of the data word that follows a write. -/
theorem decodeBus_ok {words rest : List Word} (h : decodeBus p words = .ok (i, rest)) :
    ∃ row ∈ busRows p.layout, ∃ cmd wdata, row.covers cmd = true ∧ dataFits (cmdSz cmd) wdata = true ∧
      (row.build cmd 0#32).wf p = true ∧ i = row.build cmd wdata ∧
      words = (if cmdWe cmd then [cmd, wdata] else [cmd]) ++ rest := by
  cases words with
  | nil => cases h
  | cons cmd more =>
    rw [decodeBus] at h
    split at h
    · cases h
    split at h
    · cases h
    next row hfound =>
    have hcovers : row.covers cmd = true := List.find?_some (p := fun row : BusRow => row.covers cmd) hfound
    refine ⟨row, List.mem_of_find?_eq_some hfound, cmd, ?_⟩
    split at h
    · cases h
    next hwf =>
    rw [Bool.not_eq_false] at hwf
    cases hwe : cmdWe cmd
    · rw [hwe] at h
      cases h
      exact ⟨0#32, hcovers, decide_eq_true (Nat.two_pow_pos _), hwf, rfl, rfl⟩
    · rw [hwe, if_pos rfl] at h
      cases more with
      | nil => cases h
      | cons wdata rest' =>
        rw [decodeData] at h
        split at h
        next hfits => cases h; exact ⟨wdata, hcovers, hfits, hwf, rfl, rfl⟩
        · cases h

/-! ### Every operation of the bus has a row (R104) -/

/-- A row makes the operation of a command word that it covers and a data word that fits, 0 for a read. -/
def MadeByRow (l : Layout) (i : Instr) : Prop :=
  ∃ row ∈ busRows l, ∃ cmd wdata, CommandForm cmd ∧ row.covers cmd = true ∧ dataFits (cmdSz cmd) wdata = true ∧
    (cmdWe cmd = false → wdata = 0#32) ∧ i = row.build cmd wdata

@[simp] theorem cmdZero_command (we : Bool) (sz : Width) (blk : Blk) (off : BitVec 12) :
    cmdZero (command we sz blk off) = 0#13 := by
  unfold cmdZero command
  simp only [BitVec.extractLsb'_append_eq_of_le, BitVec.extractLsb'_append_eq_right, Nat.reduceLeDiff,
    Nat.reduceSub]

theorem commandForm_command (we : Bool) (sz : Width) (blk : Blk) (off : BitVec 12) :
    CommandForm (command we sz blk off) :=
  ⟨cmdZero_command we sz blk off, by rw [cmdSz_command]; cases sz <;> decide⟩

theorem dataFits_zero (sz : BitVec 2) : dataFits sz 0#32 = true := decide_eq_true (Nat.two_pow_pos _)

theorem dataFits_word (wdata : Word) : dataFits Width.w32.code wdata = true := decide_eq_true wdata.isLt

theorem dataFits_setWidth {n : Nat} {sz : Width} (v : BitVec n) (hn : 8 * szBytes sz.code = n) :
    dataFits sz.code (v.setWidth 32) = true := by
  refine decide_eq_true ?_
  rw [hn, BitVec.toNat_setWidth]
  exact (Nat.mod_le _ _).trans_lt v.isLt

theorem extractLsb'_setWidth_word {n : Nat} (v : BitVec n) (hn : n ≤ 32) : (v.setWidth 32).extractLsb' 0 n = v := by
  rw [BitVec.extractLsb'_setWidth_of_le (by omega), BitVec.extractLsb'_eq_self]

section MadeByRow

variable {sz : Width} {blk : Blk} {off : BitVec 12} {k : Nat}

theorem madeByRow_of_covers {we : Bool} {row : BusRow} (hrow : (busRows l)[k]? = some row)
    (hcovers : row.covers (command we sz blk off) = true) {wdata : Word} (hfits : dataFits sz.code wdata = true)
    (hread : we = false → wdata = 0#32) (h : i = row.build (command we sz blk off) wdata) : MadeByRow l i :=
  ⟨row, List.mem_of_getElem? hrow, _, wdata, commandForm_command we sz blk off, hcovers, by rwa [cmdSz_command],
    by rwa [cmdWe_command], h⟩

theorem covers_self (c : Word) (build : Word → Word → Instr) : BusRow.covers ⟨0xFFFFFFFF#32, c, build⟩ c = true := by
  have hmask : c &&& BitVec.allOnes 32 = c := BitVec.and_allOnes
  exact beq_iff_eq.2 hmask

theorem madeByRow_read (hrow : (busRows l)[k]? = some (.read sz blk off i)) : MadeByRow l i :=
  madeByRow_of_covers hrow (covers_self _ _) (dataFits_zero _) (fun _ => rfl) rfl

theorem madeByRow_write {build : Word → Instr} (hrow : (busRows l)[k]? = some (.write sz blk off build))
    {wdata : Word} (hfits : dataFits sz.code wdata = true) (h : i = build wdata) : MadeByRow l i :=
  madeByRow_of_covers hrow (covers_self _ _) hfits nofun h

theorem madeByRow_writeWord {build : Word → Instr} (hrow : (busRows l)[k]? = some (.write .w32 blk off build))
    (wdata : Word) : MadeByRow l (build wdata) :=
  madeByRow_write hrow (dataFits_word wdata) rfl

end MadeByRow

theorem covers_iserOff (we : Bool) (r : BitVec 4) (build : Word → Word → Instr) :
    BusRow.covers ⟨0xFFFFFFC3#32, command we .w32 .nvicIser 0#12, build⟩ (command we .w32 .nvicIser (iserOff r)) =
      true := by
  have hcovers : ∀ (we : Bool) (r : BitVec 4),
      command we .w32 .nvicIser (iserOff r) &&& 0xFFFFFFC3#32 = command we .w32 .nvicIser 0#12 := by decide
  exact beq_iff_eq.2 (hcovers we r)

theorem covers_iprOff (we : Bool) (n : BitVec 9) (build : Word → Word → Instr) :
    BusRow.covers ⟨0xFFFFFE00#32, command we .w8 .nvicIpr 0#12, build⟩ (command we .w8 .nvicIpr (iprOff n)) = true := by
  have hlow : n.setWidth 32 &&& 0xFFFFFE00#32 = 0#32 := by
    have hfield := and_fieldMask (n.setWidth 32) 0x1FF#32 0 9 (by decide)
    rw [extractLsb'_setWidth_word n (by decide), BitVec.shiftLeft_zero] at hfield
    rw [← hfield, BitVec.and_assoc]
    exact BitVec.and_zero
  have hpattern : command we .w8 .nvicIpr 0#12 &&& 0xFFFFFE00#32 = command we .w8 .nvicIpr 0#12 := by
    cases we <;> decide
  refine beq_iff_eq.2 ?_
  rw [command_iprOff, BitVec.and_or_distrib_right, hlow, hpattern, BitVec.or_zero]

theorem madeByRow_of_bus {words : List Word} (h : encode l i = .bus words) : MadeByRow l i := by
  cases i with
  | rdUsartCr1 => exact madeByRow_read (k := 0) rfl
  | wrUsartCr1 v => exact madeByRow_writeWord (k := 1) rfl v
  | rdUsartCr2 => exact madeByRow_read (k := 2) rfl
  | wrUsartCr2 v => exact madeByRow_writeWord (k := 3) rfl v
  | rdUsartBrr => exact madeByRow_read (k := 4) rfl
  | wrUsartBrr v => exact madeByRow_writeWord (k := 5) rfl v
  | rdUsartRtor => exact madeByRow_read (k := 6) rfl
  | wrUsartRtor v => exact madeByRow_writeWord (k := 7) rfl v
  | rdUsartIsr => exact madeByRow_read (k := 8) rfl
  | rdUsartIcr => exact madeByRow_read (k := 9) rfl
  | wrUsartIcr v => exact madeByRow_writeWord (k := 10) rfl v
  | rdUsartRdr => exact madeByRow_read (k := 11) rfl
  | rdUsartTdr => exact madeByRow_read (k := 12) rfl
  | wrUsartTdr v => exact madeByRow_writeWord (k := 13) rfl v
  | rdI2cCr1 => exact madeByRow_read (k := 14) rfl
  | wrI2cCr1 v => exact madeByRow_writeWord (k := 15) rfl v
  | rdI2cCr2 => exact madeByRow_read (k := 16) rfl
  | wrI2cCr2 v => exact madeByRow_writeWord (k := 17) rfl v
  | rdI2cTimingr => exact madeByRow_read (k := 18) rfl
  | wrI2cTimingr v => exact madeByRow_writeWord (k := 19) rfl v
  | rdI2cIsr => exact madeByRow_read (k := 20) rfl
  | rdI2cIcr => exact madeByRow_read (k := 21) rfl
  | wrI2cIcr v => exact madeByRow_writeWord (k := 22) rfl v
  | rdI2cRxdr => exact madeByRow_read (k := 23) rfl
  | rdI2cTxdr => exact madeByRow_read (k := 24) rfl
  | wrI2cTxdr v => exact madeByRow_writeWord (k := 25) rfl v
  | rdSpiCr1 => exact madeByRow_read (k := 26) rfl
  | wrSpiCr1 v => exact madeByRow_writeWord (k := 27) rfl v
  | rdSpiCr2 => exact madeByRow_read (k := 28) rfl
  | wrSpiCr2 v => exact madeByRow_writeWord (k := 29) rfl v
  | rdSpiSr => exact madeByRow_read (k := 30) rfl
  | rd8SpiDr => exact madeByRow_read (k := 31) rfl
  | rd16SpiDr => exact madeByRow_read (k := 32) rfl
  | wr8SpiDr v =>
    exact madeByRow_write (k := 33) rfl (dataFits_setWidth v rfl) (by simp [extractLsb'_setWidth_word v])
  | wr16SpiDr v =>
    exact madeByRow_write (k := 34) rfl (dataFits_setWidth v rfl) (by simp [extractLsb'_setWidth_word v])
  | rdNvicIser r =>
    exact madeByRow_of_covers (k := 35) rfl (covers_iserOff false r _) (dataFits_zero _) (fun _ => rfl)
      (by simp)
  | wrNvicIser r v =>
    exact madeByRow_of_covers (k := 36) rfl (covers_iserOff true r _) (dataFits_word v) nofun (by simp)
  | rdNvicIpr n =>
    exact madeByRow_of_covers (k := 37) rfl (covers_iprOff false n _) (dataFits_zero _) (fun _ => rfl)
      (by simp)
  | wrNvicIpr n v =>
    exact madeByRow_of_covers (k := 38) rfl (covers_iprOff true n _) (dataFits_setWidth v rfl) nofun
      (by simp [extractLsb'_setWidth_word v])
  | evUsartClk | evUsartTick | evI2cStart | evI2cAddr | evI2cTxByte | evI2cRxByte | evI2cStop | evI2cBusFree | evSpiLoad
  | evSpiBit | evSpiModf | evNvicPend => cases h

/-- What the encoder writes decodes to the operation it was written for (R105). -/
theorem decodeBus_encode (hl : Machine.LayoutValid p.layout) (hwf : i.wf p = true) {words : List Word}
    (h : encode p.layout i = .bus words) (rest : List Word) : decodeBus p (words ++ rest) = .ok (i, rest) := by
  obtain ⟨row, hrow, cmd, wdata, hform, hcovers, hfits, hread, rfl⟩ := madeByRow_of_bus h
  have hencodes := busRows_encode p.layout row hrow
  rw [hencodes.index] at hwf
  rw [hencodes.words cmd wdata hcovers hfits] at h
  obtain rfl := Packet.bus.inj h
  cases hwe : cmdWe cmd
  · simp [decodeBus_of_covered hl hform hrow hcovers, hwf, hwe, hread hwe]
  · simp [decodeBus_of_covered hl hform hrow hcovers, hwf, hwe, decodeData, hfits]

/-! ### Events (R107) -/

/-- The operand as the bytes that follow a label, the least significant first. -/
def operandAsBytes (bytes : Nat) (operand : BitVec 16) : List Byte :=
  [operand.extractLsb' 0 8, operand.extractLsb' 8 8].take bytes

theorem takeOperand_eq_some {n : Nat} {bytes rest : List Byte} {operand : BitVec 16}
    (h : takeOperand n bytes = some (operand, rest)) : bytes = operandAsBytes n operand ++ rest := by
  unfold takeOperand at h
  split at h
  · cases h; rfl
  · cases h; simp [operandAsBytes, BitVec.extractLsb'_setWidth_of_le]
  next lo hi more =>
    cases h
    have hlo : (hi ++ lo).extractLsb' 0 8 = lo := BitVec.extractLsb'_append_eq_right
    have hhi : (hi ++ lo).extractLsb' 8 8 = hi := BitVec.extractLsb'_append_eq_left
    simp [operandAsBytes, hlo, hhi]
  · cases h

theorem takeOperand_operandAsBytes {n : Nat} (hn : n ≤ 2) {operand : BitVec 16} (h : operand.toNat < 2 ^ (8 * n))
    (rest : List Byte) : takeOperand n (operandAsBytes n operand ++ rest) = some (operand, rest) := by
  obtain rfl | rfl | rfl : n = 0 ∨ n = 1 ∨ n = 2 := by omega
  · have hzero : operand = 0#16 := BitVec.eq_of_toNat_eq (by simpa using h)
    rw [hzero]
    rfl
  · have hbyte : (operand.extractLsb' 0 8).setWidth 16 = operand := by
      refine BitVec.eq_of_toNat_eq ?_
      have := operand.isLt
      simp only [BitVec.toNat_setWidth, BitVec.extractLsb'_toNat, Nat.shiftRight_zero]
      omega
    simp [operandAsBytes, takeOperand, hbyte]
  · have hbytes : operand.extractLsb' 8 8 ++ operand.extractLsb' 0 8 = operand :=
      (BitVec.extractLsb'_append_extractLsb'_eq_extractLsb' rfl).trans BitVec.extractLsb'_eq_self
    simp [operandAsBytes, takeOperand, hbytes]

/-- A row makes of an operand of its width the operation whose bytes are its label and the operand. -/
def EventRow.Encodes (l : Layout) (row : EventRow) : Prop :=
  ∀ operand : BitVec 16, operand.toNat < 2 ^ row.operandBits →
    encode l (row.build operand) = .event (row.label :: operandAsBytes (operandBytes row.operandBits) operand)

/-- An operand of one bit, as the byte that holds it. -/
theorem bitByte_eq {o : BitVec 16} (h : o.toNat < 2 ^ 1) : 0#7 ++ BitVec.ofBool (o.getLsbD 0) = o.extractLsb' 0 8 := by
  have hall : ∀ k < 2, 0#7 ++ BitVec.ofBool ((BitVec.ofNat 16 k).getLsbD 0) = (BitVec.ofNat 16 k).extractLsb' 0 8 := by
    decide
  simpa using hall o.toNat h

/-- An operand of two bits, as the byte that holds them. -/
theorem twoBitsByte_eq {o : BitVec 16} (h : o.toNat < 2 ^ 2) :
    0#6 ++ BitVec.ofBool (o.getLsbD 1) ++ BitVec.ofBool (o.getLsbD 0) = o.extractLsb' 0 8 := by
  have hall : ∀ k < 4, 0#6 ++ BitVec.ofBool ((BitVec.ofNat 16 k).getLsbD 1) ++
      BitVec.ofBool ((BitVec.ofNat 16 k).getLsbD 0) = (BitVec.ofNat 16 k).extractLsb' 0 8 := by decide
  simpa using hall o.toNat h

/-- The second byte of the operand of NVIC.PEND: the highest bit of the line and the level (log entry 3). -/
theorem pendByte_eq {o : BitVec 16} (h : o.toNat < 2 ^ 10) :
    0#6 ++ BitVec.ofBool (o.getLsbD 9) ++ (o.extractLsb' 0 9).extractLsb' 8 1 = o.extractLsb' 8 8 := by
  refine BitVec.eq_of_getLsbD_eq fun j hj => ?_
  rw [BitVec.getLsbD_append, BitVec.getLsbD_append]
  obtain rfl | rfl | hhigh : j = 0 ∨ j = 1 ∨ 2 ≤ j := by omega
  · simp
  · simp
  · have hclear : o.getLsbD (8 + j) = false :=
      Nat.testBit_eq_false_of_lt (h.trans_le (Nat.pow_le_pow_right (by decide) (by omega)))
    simp [hclear, show ¬j < 1 by omega, show ¬j - 1 < 1 by omega]

theorem encodes_bit {label : Byte} {build : Bool → Instr}
    (h : ∀ b, encode l (build b) = .event [label, 0#7 ++ BitVec.ofBool b]) :
    EventRow.Encodes l ⟨label, 1, fun o => build (o.getLsbD 0)⟩ := by
  intro o ho
  simp only [h, bitByte_eq ho]
  rfl

theorem encodes_twoBits {label : Byte} {build : Bool → Bool → Instr}
    (h : ∀ a b, encode l (build a b) = .event [label, 0#6 ++ BitVec.ofBool b ++ BitVec.ofBool a]) :
    EventRow.Encodes l ⟨label, 2, fun o => build (o.getLsbD 0) (o.getLsbD 1)⟩ := by
  intro o ho
  simp only [h, twoBitsByte_eq ho]
  rfl

theorem eventRows_encode (l : Layout) : ∀ row ∈ eventRows, row.Encodes l := by
  have pend : EventRow.Encodes l ⟨0x30#8, 10, fun o => .evNvicPend (o.extractLsb' 0 9) (o.getLsbD 9)⟩ := by
    intro o ho
    simp only [encode, pendByte_eq ho]
    rw [BitVec.extractLsb'_extractLsb'_of_le (by decide)]
    rfl
  simp only [eventRows, List.forall_mem_cons]
  exact ⟨fun _ _ => rfl, encodes_bit fun _ => rfl, fun _ _ => rfl, encodes_twoBits fun _ _ => rfl,
    encodes_twoBits fun _ _ => rfl, fun _ _ => rfl, fun _ _ => rfl, fun _ _ => rfl, fun _ _ => rfl,
    encodes_bit fun _ => rfl, encodes_bit fun _ => rfl, pend, nofun⟩

/-- A row makes the operation of an operand of its width. -/
def MadeByEventRow (i : Instr) : Prop :=
  ∃ row ∈ eventRows, ∃ operand : BitVec 16, operand.toNat < 2 ^ row.operandBits ∧ i = row.build operand

/-- An operand of so many bits as an operand of two bytes. -/
theorem madeByEventRow {k : Nat} {row : EventRow} (hrow : eventRows[k]? = some row) (operand : BitVec row.operandBits)
    (h : i = row.build (operand.setWidth 16)) : MadeByEventRow i :=
  ⟨row, List.mem_of_getElem? hrow, operand.setWidth 16,
    (BitVec.toNat_setWidth .. ▸ Nat.mod_le _ _).trans_lt operand.isLt, h⟩

theorem madeByEventRow_of_event {bytes : List Byte} (h : encode l i = .event bytes) : MadeByEventRow i := by
  cases i with
  | evUsartClk => exact madeByEventRow (k := 0) rfl 0#0 rfl
  | evUsartTick p => exact madeByEventRow (k := 1) rfl (BitVec.ofBool p) (by cases p <;> rfl)
  | evI2cStart => exact madeByEventRow (k := 2) rfl 0#0 rfl
  | evI2cAddr ack lost =>
    exact madeByEventRow (k := 3) rfl (BitVec.ofBool lost ++ BitVec.ofBool ack) (by cases lost <;> cases ack <;> rfl)
  | evI2cTxByte ack lost =>
    exact madeByEventRow (k := 4) rfl (BitVec.ofBool lost ++ BitVec.ofBool ack) (by cases lost <;> cases ack <;> rfl)
  | evI2cRxByte data =>
    exact madeByEventRow (k := 5) rfl data (congrArg Instr.evI2cRxByte (by simp [BitVec.extractLsb'_setWidth_of_le]))
  | evI2cStop => exact madeByEventRow (k := 6) rfl 0#0 rfl
  | evI2cBusFree => exact madeByEventRow (k := 7) rfl 0#0 rfl
  | evSpiLoad => exact madeByEventRow (k := 8) rfl 0#0 rfl
  | evSpiBit m => exact madeByEventRow (k := 9) rfl (BitVec.ofBool m) (by cases m <;> rfl)
  | evSpiModf nss => exact madeByEventRow (k := 10) rfl (BitVec.ofBool nss) (by cases nss <;> rfl)
  | evNvicPend n level =>
    have hline : ((BitVec.ofBool level ++ n).setWidth 16).extractLsb' 0 9 = n :=
      (BitVec.extractLsb'_setWidth_of_le (by decide)).trans BitVec.extractLsb'_append_eq_right
    have hlevel : ((BitVec.ofBool level ++ n).setWidth 16).getLsbD 9 = level := by
      rw [BitVec.getLsbD_setWidth, BitVec.getLsbD_append]
      simp
    exact madeByEventRow (k := 11) rfl (BitVec.ofBool level ++ n) (congrArg₂ Instr.evNvicPend hline hlevel).symm
  | _ => cases h

theorem eventRow?_label : ∀ row ∈ eventRows, eventRow? row.label = some row := by
  simp only [eventRows, List.forall_mem_cons]
  exact ⟨rfl, rfl, rfl, rfl, rfl, rfl, rfl, rfl, rfl, rfl, rfl, rfl, nofun⟩

theorem operandBytes_le : ∀ row ∈ eventRows, operandBytes row.operandBits ≤ 2 ∧
    row.operandBits ≤ 8 * operandBytes row.operandBits := by
  simp [eventRows, operandBytes]

/-- What the encoder writes decodes to the operation it was written for (R107). -/
theorem decodeEvent_encode (hwf : i.wf p = true) {bytes : List Byte} (h : encode p.layout i = .event bytes)
    (rest : List Byte) : decodeEvent p (bytes ++ rest) = .ok (i, rest) := by
  obtain ⟨row, hrow, operand, hlt, rfl⟩ := madeByEventRow_of_event h
  obtain ⟨hbytes, hbits⟩ := operandBytes_le row hrow
  have htake := takeOperand_operandAsBytes hbytes (hlt.trans_le (Nat.pow_le_pow_right (by decide) hbits)) rest
  rw [eventRows_encode p.layout row hrow operand hlt] at h
  obtain rfl := Packet.event.inj h
  simp [decodeEvent, eventRow?_label row hrow, htake, hlt, hwf]

theorem decodeEvent_ok {bytes rest : List Byte} (h : decodeEvent p bytes = .ok (i, rest)) :
    ∃ row ∈ eventRows, ∃ operand : BitVec 16, operand.toNat < 2 ^ row.operandBits ∧ i = row.build operand ∧
      i.wf p = true ∧ bytes = row.label :: operandAsBytes (operandBytes row.operandBits) operand ++ rest := by
  cases bytes with
  | nil => cases h
  | cons label more =>
    rw [decodeEvent] at h
    split at h
    · cases h
    next row hfound =>
    have hlabel : row.label = label := by simpa using List.find?_some hfound
    split at h
    · cases h
    next operand rest' htake =>
    split at h
    · cases h
    next hlt =>
    split at h
    · cases h
    next hwf =>
    cases h
    exact ⟨row, List.mem_of_find?_eq_some hfound, operand, Nat.lt_of_not_le hlt, rfl, by simpa using hwf,
      by rw [hlabel, takeOperand_eq_some htake]; rfl⟩

/-- Settles O1: every operation is made by a row, of the words the encoder writes for it, and no other row covers
its command word or has its label. -/
theorem decodeOfEncode : Obligations.DecodeOfEncode := by
  unfold Obligations.DecodeOfEncode
  exact fun p hp i hwf => ⟨fun _ h => decodeBus_encode hp.layout hwf h, fun _ h => decodeEvent_encode hwf h⟩

/-- Settles O2: what decodes is made by a row, and a row makes its operations of the words the encoder writes. -/
theorem encodeOfDecode : Obligations.EncodeOfDecode := by
  unfold Obligations.EncodeOfDecode
  refine fun p => ⟨fun words i rest h => ?_, fun bytes i rest h => ?_⟩
  · obtain ⟨row, hrow, cmd, wdata, hcovers, hfits, hwf, rfl, hwords⟩ := decodeBus_ok h
    have hencodes := busRows_encode p.layout row hrow
    exact ⟨(hencodes.index p cmd wdata).trans hwf, _, hencodes.words cmd wdata hcovers hfits, hwords⟩
  · obtain ⟨row, hrow, operand, hlt, rfl, hwf, hbytes⟩ := decodeEvent_ok h
    exact ⟨hwf, _, eventRows_encode p.layout row hrow operand hlt, hbytes⟩

end Sys2Proof
end

section
/-! PROOF. Every operation acts on one sub-block (20_memory.md R87): what it does is told by the parameters and that
sub-block, and it is done to that sub-block and to HOST's answer only. -/

namespace Sys2Proof.Machine

/-! ### A part of the machine's state -/

/-- A part of the machine's state, other than the parameters and HOST's answer, and the operations on it alone. -/
structure Component (α : Type) where
  get : State → α
  set : State → α → State
  on : State → OutcomeOf α → Out
  set_params : ∀ s a, (set s a).params = s.params
  set_get : ∀ s, set s (get s) = s
  set_rdata : ∀ s a, (set s a).rdata = s.rdata
  get_respond : ∀ s w, get (s.respond w) = get s
  set_respond : ∀ s w a, set (s.respond w) a = (set s a).respond w
  on_next : ∀ s a, on s (.next a) = .next (set s a)
  on_refused : ∀ s r, on s (.refused r) = .refused r

/-- The state of a sub-block. -/
def SubBlock.Data : SubBlock → Type
  | .usart => Usart
  | .i2c => I2c
  | .spi => Spi
  | .nvic => Nvic

/-- The sub-blocks as parts of the state. -/
def SubBlock.component : (b : SubBlock) → Component b.Data
  | .usart => ⟨State.usart, State.setUsart, State.onUsart, fun _ _ => rfl, fun _ => rfl, fun _ _ => rfl,
      fun _ _ => rfl, fun _ _ _ => rfl, fun _ _ => rfl, fun _ _ => rfl⟩
  | .i2c => ⟨State.i2c, State.setI2c, State.onI2c, fun _ _ => rfl, fun _ => rfl, fun _ _ => rfl,
      fun _ _ => rfl, fun _ _ _ => rfl, fun _ _ => rfl, fun _ _ => rfl⟩
  | .spi => ⟨State.spi, State.setSpi, State.onSpi, fun _ _ => rfl, fun _ => rfl, fun _ _ => rfl,
      fun _ _ => rfl, fun _ _ _ => rfl, fun _ _ => rfl, fun _ _ => rfl⟩
  | .nvic => ⟨State.nvic, State.setNvic, State.onNvic, fun _ _ => rfl, fun _ => rfl, fun _ _ => rfl,
      fun _ _ => rfl, fun _ _ _ => rfl, fun _ _ => rfl, fun _ _ => rfl⟩

namespace Component

variable {α : Type} {q : Component α} {k : State → Out} {answers : Prop}

/-- The part set, and HOST answered where there is an answer. -/
def update (q : Component α) (s : State) (a : α) (answer : Option Word) : State :=
  (q.set s a).respond (answer.getD s.rdata)

theorem update_none (q : Component α) (s : State) (a : α) : q.update s a none = q.set s a := by
  rw [update, Option.getD_none, ← q.set_rdata s a]
  rfl

/-- What an operation makes of the machine: a refusal, or the part and the answer. -/
def outcome (q : Component α) (s : State) : Except Refusal (α × Option Word) → Out
  | .ok (a, answer) => .next (q.update s a answer)
  | .error r => .refused r

/-- The operation reads the parameters and the part, changes the part, and answers HOST only if it may. -/
def Runs (q : Component α) (answers : Prop) (k : State → Out) : Prop :=
  ∃ f : Params → α → Except Refusal (α × Option Word), ∀ s, k s = q.outcome s (f s.params (q.get s)) ∧
    ∀ a w, f s.params (q.get s) = .ok (a, w) → ¬answers → w = none

/-- No operation on the part ends in a fault. -/
def NoFault (o : OutcomeOf α) : Prop := ∀ r, o ≠ .fault r

theorem NoFault.next (a : α) : NoFault (.next a) := nofun

theorem NoFault.refuseIf {o : OutcomeOf α} (h : NoFault o) (bad : Bool) (r : Refusal) : NoFault (refuseIf bad r o) := by
  cases bad
  · exact h
  · nofun

/-! ### The shapes of the meanings -/

theorem runs_respond (q : Component α) (hread : answers) (g : α → α) (w : Params → α → Word) :
    q.Runs answers fun s => .next ((q.set s (g (q.get s))).respond (w s.params (q.get s))) :=
  ⟨fun p a => .ok (g a, some (w p a)), fun _ => ⟨rfl, fun _ _ _ hn => absurd hread hn⟩⟩

theorem runs_read (q : Component α) (hread : answers) (g : α → α) (r : Reg) (w : α → Word) :
    q.Runs answers fun s => .next ((q.set s (g (q.get s))).busRead r (w (q.get s))) := by
  have hbus (s : State) : (q.set s (g (q.get s))).busRead r (w (q.get s)) =
      (q.set s (g (q.get s))).respond (toBus s.params.layout r (w (q.get s))) := by
    rw [← q.set_params s (g (q.get s))]
    rfl
  simp only [hbus]
  exact runs_respond q hread g fun p a => toBus p.layout r (w a)

/-- An outcome of a step that ends in no fault, without an answer. -/
def silent : OutcomeOf α → Except Refusal (α × Option Word)
  | .next a => .ok (a, none)
  | .fault _ => .error .reservedBit
  | .refused r => .error r

theorem runs_on (q : Component α) {g : Params → α → OutcomeOf α} (hg : ∀ p a, NoFault (g p a)) :
    q.Runs answers fun s => q.on s (g s.params (q.get s)) := by
  refine ⟨fun p a => silent (g p a), fun s => ?_⟩
  dsimp only
  have hfault := hg s.params (q.get s)
  cases hgs : g s.params (q.get s) with
  | next a =>
    refine ⟨(q.on_next s a).trans ?_, fun _ _ h _ => by cases h; rfl⟩
    rw [silent, outcome, update_none]
  | fault r => exact absurd hgs (hfault r)
  | refused r => exact ⟨q.on_refused s r, nofun⟩

theorem Runs.refuseIf (h : q.Runs answers k) (bad : Params → α → Bool) (r : Refusal) :
    q.Runs answers fun s => refuseIf (bad s.params (q.get s)) r (k s) := by
  obtain ⟨f, hf⟩ := h
  refine ⟨fun p a => if bad p a then .error r else f p a, fun s => ?_⟩
  cases hbad : bad s.params (q.get s)
  · simpa [Machine.refuseIf, hbad] using hf s
  · simp [Machine.refuseIf, hbad, outcome]

theorem runs_write (q : Component α) (r : Reg) (raw : Word) {g : α → Word → OutcomeOf α} (hg : ∀ a w, NoFault (g a w)) :
    q.Runs answers fun s => s.busWrite r raw fun w => q.on s (g (q.get s) w) :=
  Runs.refuseIf (runs_on q (g := fun p a => g a (fromBus p.layout r raw)) fun _ _ => hg _ _)
    (fun p _ => setsReserved raw (bitsMask (p.layout.of r).pos)) .reservedBit

theorem runs_event (q : Component α) (enabled : α → Bool) {g : α → OutcomeOf α} (hg : ∀ a, NoFault (g a)) :
    q.Runs answers fun s => whenEnabled (enabled (q.get s)) s (q.on s (g (q.get s))) := by
  have hstep : (fun s => whenEnabled (enabled (q.get s)) s (q.on s (g (q.get s)))) =
      fun s => q.on s (if enabled (q.get s) then g (q.get s) else .next (q.get s)) := by
    funext s
    cases enabled (q.get s)
    · exact (congrArg Host.Outcome.next (q.set_get s).symm).trans (q.on_next s _).symm
    · rfl
  rw [hstep]
  refine runs_on q (g := fun _ a => if enabled a then g a else .next a) fun _ a => ?_
  split
  · exact hg a
  · exact .next a

/-! ### What follows for the machine -/

theorem Runs.ne_fault (h : q.Runs answers k) (s : State) (r : Fault) : k s ≠ .fault r := by
  obtain ⟨f, hf⟩ := h
  rw [(hf s).1]
  cases f s.params (q.get s) <;> nofun

/-- What an operation does is the same wherever the parameters and the part are. -/
theorem Runs.next {s t : State} (h : q.Runs answers k) (ht : k s = .next t) : ∃ a answer,
    (∀ s', s'.params = s.params → q.get s' = q.get s → k s' = .next (q.update s' a answer)) ∧
      t = q.update s a answer ∧ (¬answers → answer = none) := by
  obtain ⟨f, hf⟩ := h
  obtain ⟨hs, hanswers⟩ := hf s
  cases hfs : f s.params (q.get s) with
  | error r =>
    rw [hs, hfs] at ht
    cases ht
  | ok p =>
    rw [hs, hfs] at ht
    cases ht
    exact ⟨p.1, p.2, fun s' hparams hget => by rw [(hf s').1, hparams, hget, hfs]; rfl, rfl, hanswers _ _ hfs⟩

/-- Setting the one part and setting the other do not see each other. -/
structure Apart {α β : Type} (q : Component α) (r : Component β) : Prop where
  get_left : ∀ s b, q.get (r.set s b) = q.get s
  get_right : ∀ s a, r.get (q.set s a) = r.get s
  set_set : ∀ s a b, q.set (r.set s b) a = r.set (q.set s a) b

theorem update_params (q : Component α) (s : State) (a : α) (answer : Option Word) :
    (q.update s a answer).params = s.params := q.set_params s a

section Apart

variable {β : Type} {r : Component β}

/-- Two updates, one after the other. -/
theorem update_update (q : Component α) (r : Component β) (s : State) (a : α) (b : β) (x y : Option Word) :
    r.update (q.update s a x) b y = (r.set (q.set s a) b).respond (y.getD (x.getD s.rdata)) := by
  rw [update, update, r.set_respond]
  rfl

/-- Operations on different parts run in either order, and only the order of two answers can be told. -/
theorem Apart.commute (h : q.Apart r) {kq kr : State → Out} {answersQ answersR : Prop} (hq : q.Runs answersQ kq)
    (hr : r.Runs answersR kr) {s m t : State} (hm : kq s = .next m) (ht : kr m = .next t) :
    ∃ n u, kr s = .next n ∧ kq n = .next u ∧ u = { t with rdata := u.rdata } ∧ (¬answersQ ∨ ¬answersR → u = t) := by
  obtain ⟨a, x, hsameQ, rfl, hx⟩ := hq.next hm
  obtain ⟨b, y, hsameR, rfl, hy⟩ := hr.next ht
  have hkr := hsameR s (update_params q s a x).symm ((h.get_right s a).symm.trans (r.get_respond _ _).symm)
  have hkq := hsameQ (r.update s b y) (update_params r s b y) ((q.get_respond _ _).trans (h.get_left s b))
  refine ⟨_, _, hkr, hkq, ?_, fun hone => ?_⟩
  · rw [update_update, update_update, h.set_set]
    rfl
  · rw [update_update, update_update, h.set_set]
    rcases hone with hnone | hnone
    · rw [hx hnone]
      rfl
    · rw [hy hnone]
      rfl

end Apart

end Component

/-- The operation is a read: one word that no data word follows (R100). -/
def IsRead (i : Instr) : Prop := ∀ l, ∃ cmd, encode l i = .bus [cmd]

open Component

/-- Every operation acts on its sub-block, and only a read answers HOST. -/
theorem exec_runs (i : Instr) : (subBlock i).component.Runs (IsRead i) (exec i) := by
  cases i with
  | rdUsartCr1 => exact runs_read _ (fun _ => ⟨_, rfl⟩) id .usartCr1 (fun x : Usart => x.cr1)
  | wrUsartCr1 v =>
    exact runs_write _ .usartCr1 v (g := Usart.writeCr1)
      fun _ _ => .refuseIf (.refuseIf (.refuseIf (.next _) _ _) _ _) _ _
  | rdUsartCr2 => exact runs_read _ (fun _ => ⟨_, rfl⟩) id .usartCr2 (fun x : Usart => x.cr2)
  | wrUsartCr2 v =>
    exact runs_write _ .usartCr2 v (g := Usart.writeCr2) fun _ _ => .refuseIf (.refuseIf (.next _) _ _) _ _
  | rdUsartBrr => exact runs_read _ (fun _ => ⟨_, rfl⟩) id .usartBrr (fun x : Usart => x.brr.setWidth 32)
  | wrUsartBrr v => exact runs_write _ .usartBrr v (g := Usart.writeBrr) fun _ _ => .refuseIf (.next _) _ _
  | rdUsartRtor => exact runs_read _ (fun _ => ⟨_, rfl⟩) id .usartRtor (fun x : Usart => x.rto.setWidth 32)
  | wrUsartRtor v => exact runs_write _ .usartRtor v (g := Usart.writeRtor) fun _ _ => .next _
  | rdUsartIsr => exact runs_read _ (fun _ => ⟨_, rfl⟩) id .usartIsr (fun x : Usart => x.isr.word)
  | rdUsartIcr => exact runs_read _ (fun _ => ⟨_, rfl⟩) id .usartIcr (fun _ : Usart => 0#32)
  | wrUsartIcr v => exact runs_write _ .usartIcr v (g := Usart.writeIcr) fun _ _ => .next _
  | rdUsartRdr => exact runs_read _ (fun _ => ⟨_, rfl⟩) Usart.takeRdr .usartRdr (fun x : Usart => x.rdr.setWidth 32)
  | rdUsartTdr => exact runs_read _ (fun _ => ⟨_, rfl⟩) id .usartTdr (fun x : Usart => x.tdr.setWidth 32)
  | wrUsartTdr v => exact runs_write _ .usartTdr v (g := Usart.writeTdr) fun _ _ => .refuseIf (.next _) _ _
  | rdI2cCr1 => exact runs_read _ (fun _ => ⟨_, rfl⟩) id .i2cCr1 (fun x : I2c => bitWord 0 x.pe)
  | wrI2cCr1 v => exact runs_write _ .i2cCr1 v (g := I2c.writeCr1) fun _ _ => .next _
  | rdI2cCr2 => exact runs_read _ (fun _ => ⟨_, rfl⟩) id .i2cCr2 (fun x : I2c => x.cr2)
  | wrI2cCr2 v => exact runs_write _ .i2cCr2 v (g := I2c.writeCr2) fun _ _ => .refuseIf (.refuseIf (.next _) _ _) _ _
  | rdI2cTimingr => exact runs_read _ (fun _ => ⟨_, rfl⟩) id .i2cTimingr (fun x : I2c => x.timingr)
  | wrI2cTimingr v => exact runs_write _ .i2cTimingr v (g := I2c.writeTimingr) fun _ _ => .refuseIf (.next _) _ _
  | rdI2cIsr => exact runs_read _ (fun _ => ⟨_, rfl⟩) id .i2cIsr (fun x : I2c => x.isr.word)
  | rdI2cIcr => exact runs_read _ (fun _ => ⟨_, rfl⟩) id .i2cIcr (fun _ : I2c => 0#32)
  | wrI2cIcr v => exact runs_write _ .i2cIcr v (g := I2c.writeIcr) fun _ _ => .next _
  | rdI2cRxdr => exact runs_read _ (fun _ => ⟨_, rfl⟩) I2c.takeRxdr .i2cRxdr (fun x : I2c => x.rxdr.setWidth 32)
  | rdI2cTxdr => exact runs_read _ (fun _ => ⟨_, rfl⟩) id .i2cTxdr (fun x : I2c => x.txdr.setWidth 32)
  | wrI2cTxdr v => exact runs_write _ .i2cTxdr v (g := I2c.writeTxdr) fun _ _ => .refuseIf (.next _) _ _
  | rdSpiCr1 => exact runs_read _ (fun _ => ⟨_, rfl⟩) id .spiCr1 (fun x : Spi => x.cr1)
  | wrSpiCr1 v =>
    exact runs_write _ .spiCr1 v (g := Spi.writeCr1)
      fun _ _ => .refuseIf (.refuseIf (.refuseIf (.next _) _ _) _ _) _ _
  | rdSpiCr2 => exact runs_read _ (fun _ => ⟨_, rfl⟩) id .spiCr2 (fun x : Spi => x.cr2)
  | wrSpiCr2 v => exact runs_write _ .spiCr2 v (g := Spi.writeCr2) fun _ _ => .refuseIf (.refuseIf (.next _) _ _) _ _
  | rdSpiSr => exact runs_read _ (fun _ => ⟨_, rfl⟩) Spi.afterSrRead .spiSr (fun x : Spi => x.statusWord)
  | rd8SpiDr =>
    exact ((runs_respond SubBlock.spi.component (fun _ => ⟨_, rfl⟩) (Spi.pop · 1) fun _ p => Spi.front8 p).refuseIf
      (fun _ p => decide (p.rxf.length < 1)) .rxFifoUnderflow).refuseIf (fun _ p => Spi.wideFrame p) .widthVsFrame
  | rd16SpiDr =>
    exact (runs_respond SubBlock.spi.component (fun _ => ⟨_, rfl⟩) (Spi.pop · 2) fun _ p => Spi.front16 p).refuseIf
      (fun _ p => decide (p.rxf.length < 2)) .rxFifoUnderflow
  | wr8SpiDr v => exact runs_on _ (g := fun _ p => Spi.push8 p v) fun _ _ => .refuseIf (.refuseIf (.next _) _ _) _ _
  | wr16SpiDr v => exact runs_on _ (g := fun _ p => Spi.push16 p v) fun _ _ => .refuseIf (.next _) _ _
  | rdNvicIser r =>
    exact (runs_respond SubBlock.nvic.component (fun _ => ⟨_, rfl⟩) id
      fun _ (n : Nvic) => n.iser[r.toNat]?.getD 0#32).refuseIf
      (fun p _ => outOfRange r.toNat p.nIser) .indexOutOfRange
  | wrNvicIser r v =>
    exact (runs_on SubBlock.nvic.component (g := fun _ n => .next (Nvic.setEnables n r.toNat v))
      fun _ _ => .next _).refuseIf
      (fun p _ => outOfRange r.toNat p.nIser) .indexOutOfRange
  | rdNvicIpr n =>
    exact (runs_respond SubBlock.nvic.component (fun _ => ⟨_, rfl⟩) id
      fun _ x => (Nvic.priority x n.toNat).setWidth 32).refuseIf
      (fun p _ => outOfRange n.toNat p.nLines) .indexOutOfRange
  | wrNvicIpr n v =>
    exact (runs_on SubBlock.nvic.component (g := fun p x => .next (Nvic.setPriority x p.prioBits n.toNat v))
      fun _ _ =>
      .next _).refuseIf (fun p _ => outOfRange n.toNat p.nLines) .indexOutOfRange
  | evUsartClk =>
    exact runs_event _ (fun x : Usart => UsartCr1.ue x.cr1) (g := fun x => .next (x.clock)) fun _ => .next _
  | evUsartTick p =>
    exact runs_event _ (fun x : Usart => UsartCr1.ue x.cr1) (g := fun x => .next (x.tick p)) fun _ => .next _
  | evI2cStart => exact runs_event _ I2c.startEnabled (g := I2c.sStart) fun _ => .refuseIf (.next _) _ _
  | evI2cAddr ack lost =>
    exact runs_event _ (fun x : I2c => decide (x.phase = .addr)) (g := fun x => .next (x.sAddr ack lost))
      fun _ => .next _
  | evI2cTxByte ack lost =>
    exact runs_event _ (fun x : I2c => x.txEnabled) (g := fun x => .next (x.sTxByte ack lost)) fun _ => .next _
  | evI2cRxByte data =>
    exact runs_event _ (fun x : I2c => x.rxEnabled) (g := fun x => .next (x.sRxByte data)) fun _ => .next _
  | evI2cStop => exact runs_event _ (fun x : I2c => x.stopEnabled) (g := fun x => .next (x.sStop)) fun _ => .next _
  | evI2cBusFree =>
    exact runs_event _ (fun x : I2c => decide (x.phase = .lost)) (g := fun x => .next (x.busFree)) fun _ => .next _
  | evSpiLoad => exact runs_event _ (fun x : Spi => x.loadEnabled) (g := fun x => .next (x.sLoad)) fun _ => .next _
  | evSpiBit miso =>
    exact runs_event _ (fun x : Spi => x.bitEnabled) (g := fun x => .next (x.sBit miso)) fun _ => .next _
  | evSpiModf nss =>
    exact runs_event _ (fun x : Spi => x.running) (g := fun x => .next (x.sModf nss)) fun _ => .next _
  | evNvicPend n level =>
    exact (runs_on SubBlock.nvic.component (g := fun _ x => .next (Nvic.setPending x n.toNat level))
      fun _ _ => .next _).refuseIf
      (fun p _ => outOfRange n.toNat p.nLines) .indexOutOfRange

/-- No operation ends in the outcome `fault` (log entry 14). -/
theorem exec_ne_fault (i : Instr) (s : State) (r : Fault) : exec i s ≠ .fault r := (exec_runs i).ne_fault s r

theorem SubBlock.apart {b c : SubBlock} (h : b ≠ c) : b.component.Apart c.component := by
  cases b <;> cases c <;> try exact absurd rfl h
  all_goals exact ⟨fun _ _ => rfl, fun _ _ => rfl, fun _ _ _ => rfl⟩

/-- An operation leaves alone what the component of its sub-block does. -/
theorem exec_frame {i : Instr} {s t : State} (h : exec i s = .next t) :
    ∃ a answer, t = (subBlock i).component.update s a answer ∧ (¬IsRead i → answer = none) := by
  obtain ⟨a, answer, -, ht, hanswer⟩ := (exec_runs i).next h
  exact ⟨a, answer, ht, hanswer⟩

/-- A sub-block is left alone by every operation of another. -/
theorem exec_get {i : Instr} {s t : State} (h : exec i s = .next t) {b : SubBlock} (hb : subBlock i ≠ b) :
    b.component.get t = b.component.get s := by
  obtain ⟨a, answer, rfl, -⟩ := exec_frame h
  exact (b.component.get_respond _ _).trans ((SubBlock.apart hb).get_right s a)

/-- What stands outside the block is left alone but for HOST's answer. -/
theorem SubBlock.component_set_outside (b : SubBlock) (s : State) (a : b.Data) :
    (b.component.set s a).turns = s.turns ∧ (b.component.set s a).hostStream = s.hostStream ∧
      (b.component.set s a).agentStream = s.agentStream := by
  cases b <;> exact ⟨rfl, rfl, rfl⟩

/-- A run of operations goes through the state after its first. -/
theorem runOps_cons_next {i : Instr} {is : List Instr} {s t : State} (h : runOps (i :: is) s = .next t) :
    ∃ m, exec i s = .next m ∧ runOps is m = .next t := by
  rw [runOps] at h
  cases hm : exec i s with
  | next m => exact ⟨m, rfl, by rwa [hm] at h⟩
  | fault r => rw [hm] at h; cases h
  | refused r => rw [hm] at h; cases h

/-- Settles O18: what an operation leaves is its sub-block set and HOST answered. -/
theorem operationsStayInTheirSubBlock : Obligations.OperationsStayInTheirSubBlock := by
  unfold Obligations.OperationsStayInTheirSubBlock
  intro i s t h
  obtain ⟨a, answer, ht, hanswer⟩ := exec_frame h
  obtain ⟨hturns, hhost, hagent⟩ := (subBlock i).component_set_outside s a
  refine ⟨exec_get h (b := .usart), exec_get h (b := .i2c), exec_get h (b := .spi), exec_get h (b := .nvic),
    fun hno => ?_, ht ▸ Component.update_params _ s a answer, ht ▸ hturns, ht ▸ hhost, ht ▸ hagent⟩
  rw [ht, hanswer fun hread => (hread s.params.layout).elim hno]
  rfl

/-- Settles O19: operations on different sub-blocks act on parts of the state that do not see each other. -/
theorem differentSubBlocksCommute : Obligations.DifferentSubBlocksCommute := by
  unfold Obligations.DifferentSubBlocksCommute
  intro i j s t hne hrun
  obtain ⟨m, hm, hj⟩ := runOps_cons_next hrun
  obtain ⟨t', ht, hdone⟩ := runOps_cons_next hj
  obtain rfl := (next_inj t' t).1 hdone
  obtain ⟨n, u, hn, hu, heq, hone⟩ := (SubBlock.apart hne).commute (exec_runs i) (exec_runs j) hm ht
  refine ⟨u, by rw [runOps_cons hn, runOps_cons hu]; rfl, heq, fun h => hone (h.imp ?_ ?_)⟩
  · exact fun hno hread => (hread s.params.layout).elim hno
  · exact fun hno hread => (hread s.params.layout).elim hno

/-- Settles O20: the precondition of an event is the condition of its step. -/
theorem disabledStepsChangeNothing : Obligations.DisabledStepsChangeNothing := by
  unfold Obligations.DisabledStepsChangeNothing
  intro i s h
  cases i with
  | evUsartClk | evUsartTick | evI2cStart | evI2cAddr | evI2cTxByte | evI2cRxByte | evI2cStop | evI2cBusFree | evSpiLoad
  | evSpiBit | evSpiModf => exact whenEnabled_no h s _
  | _ => cases h

end Sys2Proof.Machine
end

section
/-! PROOF. What an operation can do to each sub-block: one case for each of its steps and writes. Every invariant of a
sub-block is a case analysis over these. -/

namespace Sys2Proof.Machine

variable {s t : State} {i : Instr} {l : Layout}

/-! ### A step of the machine and an operation -/

/-- The parameters and the sub-blocks are the same; only what stands outside the block may differ. -/
structure SameBlock (s t : State) : Prop where
  params : t.params = s.params
  usart : t.usart = s.usart
  i2c : t.i2c = s.i2c
  spi : t.spi = s.spi
  nvic : t.nvic = s.nvic

/-- A step leaves the block alone, resets it, or is an operation, at a state with the same block. -/
theorem step_cases (h : step s = .next t) :
    SameBlock s t ∨ (∃ m, SameBlock s m ∧ t = resetStep m) ∨ ∃ i m, SameBlock s m ∧ exec i m = .next t := by
  obtain ⟨-, rfl⟩ | ⟨turns, -, rfl⟩ | ⟨turns, -, ⟨-, rfl⟩ | ⟨i, rest, -, hexec⟩⟩ |
    ⟨turns, -, ⟨-, rfl⟩ | ⟨i, rest, -, hexec⟩⟩ := step_next h
  · exact .inl ⟨rfl, rfl, rfl, rfl, rfl⟩
  · exact .inr (.inl ⟨{ s with turns := turns }, ⟨rfl, rfl, rfl, rfl, rfl⟩, rfl⟩)
  · exact .inl ⟨rfl, rfl, rfl, rfl, rfl⟩
  · exact .inr (.inr ⟨i, { s with turns := turns, hostStream := rest }, ⟨rfl, rfl, rfl, rfl, rfl⟩, hexec⟩)
  · exact .inl ⟨rfl, rfl, rfl, rfl, rfl⟩
  · exact .inr (.inr ⟨i, { s with turns := turns, agentStream := rest }, ⟨rfl, rfl, rfl, rfl, rfl⟩, hexec⟩)

/-- What is told by the block is kept by every step if the reset step and every operation keep it. -/
theorem step_keeps {P : State → Prop} (hsame : ∀ {s t}, SameBlock s t → P s → P t)
    (hreset : ∀ {s}, P s → P (resetStep s)) (hexec : ∀ {i s t}, exec i s = .next t → P s → P t)
    (hP : P s) (h : step s = .next t) : P t := by
  obtain hst | ⟨m, hsm, rfl⟩ | ⟨i, m, hsm, hx⟩ := step_cases h
  · exact hsame hst hP
  · exact hreset (hsame hsm hP)
  · exact hexec hx (hsame hsm hP)

/-! ### The USART -/

/-- What an operation can do to the USART: nothing, a write, the read of RDR, a clock cycle or a tick. -/
inductive UsartMove (l : Layout) : Instr → Usart → Usart → Prop
  | same {i : Instr} {u u' : Usart} (h : u' = u) : UsartMove l i u u'
  | writeCr1 {u u' : Usart} {raw : Word} (h : u.writeCr1 (fromBus l .usartCr1 raw) = .next u') :
      UsartMove l (.wrUsartCr1 raw) u u'
  | writeCr2 {u u' : Usart} {raw : Word} (h : u.writeCr2 (fromBus l .usartCr2 raw) = .next u') :
      UsartMove l (.wrUsartCr2 raw) u u'
  | writeBrr {u u' : Usart} {raw : Word} (h : u.writeBrr (fromBus l .usartBrr raw) = .next u') :
      UsartMove l (.wrUsartBrr raw) u u'
  | writeRtor {u u' : Usart} {raw : Word} (h : u.writeRtor (fromBus l .usartRtor raw) = .next u') :
      UsartMove l (.wrUsartRtor raw) u u'
  | writeIcr {u u' : Usart} {raw : Word} (h : u.writeIcr (fromBus l .usartIcr raw) = .next u') :
      UsartMove l (.wrUsartIcr raw) u u'
  | writeTdr {u u' : Usart} {raw : Word} (h : u.writeTdr (fromBus l .usartTdr raw) = .next u') :
      UsartMove l (.wrUsartTdr raw) u u'
  | takeRdr {u u' : Usart} (h : u' = u.takeRdr) : UsartMove l .rdUsartRdr u u'
  | clock {u u' : Usart} (hue : UsartCr1.ue u.cr1 = true) (h : u' = u.clock) : UsartMove l .evUsartClk u u'
  | tick {u u' : Usart} {p : Bool} (hue : UsartCr1.ue u.cr1 = true) (h : u' = u.tick p) :
      UsartMove l (.evUsartTick p) u u'

theorem usart_of_busWrite {r : Reg} {raw : Word} {write : Word → OutcomeOf Usart}
    (h : s.busWrite r raw (fun w => s.onUsart (write w)) = .next t) :
    write (fromBus s.params.layout r raw) = .next t.usart := by
  obtain ⟨-, hwrite⟩ := (busWrite_next ..).1 h
  obtain ⟨u, hu, rfl⟩ := (onUsart_next ..).1 hwrite
  exact hu

theorem usart_of_whenEnabled {enabled : Bool} {u : Usart} (h : whenEnabled enabled s (s.onUsart (.next u)) = .next t) :
    t.usart = s.usart ∨ enabled = true ∧ t.usart = u := by
  cases enabled <;> cases h
  · exact .inl rfl
  · exact .inr ⟨rfl, rfl⟩

theorem exec_usartMove (h : exec i s = .next t) : UsartMove s.params.layout i s.usart t.usart := by
  by_cases hblock : subBlock i = .usart
  case neg => exact .same (exec_get h hblock)
  cases i with
  | wrUsartCr1 => exact .writeCr1 (usart_of_busWrite h)
  | wrUsartCr2 => exact .writeCr2 (usart_of_busWrite h)
  | wrUsartBrr => exact .writeBrr (usart_of_busWrite h)
  | wrUsartRtor => exact .writeRtor (usart_of_busWrite h)
  | wrUsartIcr => exact .writeIcr (usart_of_busWrite h)
  | wrUsartTdr => exact .writeTdr (usart_of_busWrite h)
  | rdUsartRdr => cases h; exact .takeRdr rfl
  | evUsartClk => exact (usart_of_whenEnabled h).elim .same fun ⟨hue, hu⟩ => .clock hue hu
  | evUsartTick => exact (usart_of_whenEnabled h).elim .same fun ⟨hue, hu⟩ => .tick hue hu
  | rdUsartCr1 | rdUsartCr2 | rdUsartBrr | rdUsartRtor | rdUsartIsr | rdUsartIcr | rdUsartTdr =>
    cases h
    exact .same rfl
  | _ => cases hblock

/-! ### The I2C -/

/-- What an operation can do to the I2C: nothing, a write, the read of RXDR, or a step of the sequencer. -/
inductive I2cMove (l : Layout) : Instr → I2c → I2c → Prop
  | same {i : Instr} {c c' : I2c} (h : c' = c) : I2cMove l i c c'
  | writeCr1 {c c' : I2c} {raw : Word} (h : c.writeCr1 (fromBus l .i2cCr1 raw) = .next c') :
      I2cMove l (.wrI2cCr1 raw) c c'
  | writeCr2 {c c' : I2c} {raw : Word} (h : c.writeCr2 (fromBus l .i2cCr2 raw) = .next c') :
      I2cMove l (.wrI2cCr2 raw) c c'
  | writeTimingr {c c' : I2c} {raw : Word} (h : c.writeTimingr (fromBus l .i2cTimingr raw) = .next c') :
      I2cMove l (.wrI2cTimingr raw) c c'
  | writeIcr {c c' : I2c} {raw : Word} (h : c.writeIcr (fromBus l .i2cIcr raw) = .next c') :
      I2cMove l (.wrI2cIcr raw) c c'
  | writeTxdr {c c' : I2c} {raw : Word} (h : c.writeTxdr (fromBus l .i2cTxdr raw) = .next c') :
      I2cMove l (.wrI2cTxdr raw) c c'
  | takeRxdr {c c' : I2c} (h : c' = c.takeRxdr) : I2cMove l .rdI2cRxdr c c'
  | start {c c' : I2c} (he : c.startEnabled = true) (h : c.sStart = .next c') : I2cMove l .evI2cStart c c'
  | addr {c c' : I2c} {ack lost : Bool} (hphase : c.phase = .addr) (h : c' = c.sAddr ack lost) :
      I2cMove l (.evI2cAddr ack lost) c c'
  | txByte {c c' : I2c} {ack lost : Bool} (he : c.txEnabled = true) (h : c' = c.sTxByte ack lost) :
      I2cMove l (.evI2cTxByte ack lost) c c'
  | rxByte {c c' : I2c} {data : Byte} (he : c.rxEnabled = true) (h : c' = c.sRxByte data) :
      I2cMove l (.evI2cRxByte data) c c'
  | stop {c c' : I2c} (he : c.stopEnabled = true) (h : c' = c.sStop) : I2cMove l .evI2cStop c c'
  | busFree {c c' : I2c} (hphase : c.phase = .lost) (h : c' = c.busFree) : I2cMove l .evI2cBusFree c c'

theorem i2c_of_busWrite {r : Reg} {raw : Word} {write : Word → OutcomeOf I2c}
    (h : s.busWrite r raw (fun w => s.onI2c (write w)) = .next t) :
    write (fromBus s.params.layout r raw) = .next t.i2c := by
  obtain ⟨-, hwrite⟩ := (busWrite_next ..).1 h
  obtain ⟨c, hc, rfl⟩ := (onI2c_next ..).1 hwrite
  exact hc

theorem i2c_of_whenEnabled {enabled : Bool} {o : OutcomeOf I2c} (h : whenEnabled enabled s (s.onI2c o) = .next t) :
    t.i2c = s.i2c ∨ enabled = true ∧ o = .next t.i2c := by
  obtain ⟨-, rfl⟩ | ⟨he, ho⟩ := (whenEnabled_next ..).1 h
  · exact .inl rfl
  · obtain ⟨c, hc, rfl⟩ := (onI2c_next ..).1 ho
    exact .inr ⟨he, hc⟩

theorem exec_i2cMove (h : exec i s = .next t) : I2cMove s.params.layout i s.i2c t.i2c := by
  by_cases hblock : subBlock i = .i2c
  case neg => exact .same (exec_get h hblock)
  have eq {c c' : I2c} (h : (.next c : OutcomeOf I2c) = .next c') : c' = c := ((next_inj ..).1 h).symm
  cases i with
  | wrI2cCr1 => exact .writeCr1 (i2c_of_busWrite h)
  | wrI2cCr2 => exact .writeCr2 (i2c_of_busWrite h)
  | wrI2cTimingr => exact .writeTimingr (i2c_of_busWrite h)
  | wrI2cIcr => exact .writeIcr (i2c_of_busWrite h)
  | wrI2cTxdr => exact .writeTxdr (i2c_of_busWrite h)
  | rdI2cRxdr => cases h; exact .takeRxdr rfl
  | evI2cStart => exact (i2c_of_whenEnabled h).elim .same fun ⟨he, hc⟩ => .start he hc
  | evI2cAddr => exact (i2c_of_whenEnabled h).elim .same fun ⟨he, hc⟩ => .addr (of_decide_eq_true he) (eq hc)
  | evI2cTxByte => exact (i2c_of_whenEnabled h).elim .same fun ⟨he, hc⟩ => .txByte he (eq hc)
  | evI2cRxByte => exact (i2c_of_whenEnabled h).elim .same fun ⟨he, hc⟩ => .rxByte he (eq hc)
  | evI2cStop => exact (i2c_of_whenEnabled h).elim .same fun ⟨he, hc⟩ => .stop he (eq hc)
  | evI2cBusFree => exact (i2c_of_whenEnabled h).elim .same fun ⟨he, hc⟩ => .busFree (of_decide_eq_true he) (eq hc)
  | rdI2cCr1 | rdI2cCr2 | rdI2cTimingr | rdI2cIsr | rdI2cIcr | rdI2cTxdr => cases h; exact .same rfl
  | _ => cases hblock

/-! ### The SPI -/

/-- What an operation can do to the SPI: nothing, a write, a read of SR or DR, or a step of the shifter. -/
inductive SpiMove (l : Layout) : Instr → Spi → Spi → Prop
  | same {i : Instr} {p p' : Spi} (h : p' = p) : SpiMove l i p p'
  | writeCr1 {p p' : Spi} {raw : Word} (h : p.writeCr1 (fromBus l .spiCr1 raw) = .next p') :
      SpiMove l (.wrSpiCr1 raw) p p'
  | writeCr2 {p p' : Spi} {raw : Word} (h : p.writeCr2 (fromBus l .spiCr2 raw) = .next p') :
      SpiMove l (.wrSpiCr2 raw) p p'
  | readSr {p p' : Spi} (h : p' = p.afterSrRead) : SpiMove l .rdSpiSr p p'
  | pop8 {p p' : Spi} (hwide : p.wideFrame = false) (h : p' = p.pop 1) : SpiMove l .rd8SpiDr p p'
  | pop16 {p p' : Spi} (h : p' = p.pop 2) : SpiMove l .rd16SpiDr p p'
  | push8 {p p' : Spi} {v : Byte} (h : p.push8 v = .next p') : SpiMove l (.wr8SpiDr v) p p'
  | push16 {p p' : Spi} {v : BitVec 16} (h : p.push16 v = .next p') : SpiMove l (.wr16SpiDr v) p p'
  | load {p p' : Spi} (he : p.loadEnabled = true) (h : p' = p.sLoad) : SpiMove l .evSpiLoad p p'
  | bit {p p' : Spi} {miso : Bool} (he : p.bitEnabled = true) (h : p' = p.sBit miso) : SpiMove l (.evSpiBit miso) p p'
  | modf {p p' : Spi} {nssIn : Bool} (he : p.running = true) (h : p' = p.sModf nssIn) :
      SpiMove l (.evSpiModf nssIn) p p'

theorem spi_of_onSpi {o : OutcomeOf Spi} (h : s.onSpi o = .next t) : o = .next t.spi := by
  obtain ⟨p, hp, rfl⟩ := (onSpi_next ..).1 h
  exact hp

theorem spi_of_busWrite {r : Reg} {raw : Word} {write : Word → OutcomeOf Spi}
    (h : s.busWrite r raw (fun w => s.onSpi (write w)) = .next t) :
    write (fromBus s.params.layout r raw) = .next t.spi :=
  spi_of_onSpi ((busWrite_next ..).1 h).2

theorem spi_of_whenEnabled {enabled : Bool} {p : Spi} (h : whenEnabled enabled s (s.onSpi (.next p)) = .next t) :
    t.spi = s.spi ∨ enabled = true ∧ t.spi = p := by
  cases enabled <;> cases h
  · exact .inl rfl
  · exact .inr ⟨rfl, rfl⟩

theorem exec_spiMove (h : exec i s = .next t) : SpiMove s.params.layout i s.spi t.spi := by
  by_cases hblock : subBlock i = .spi
  case neg => exact .same (exec_get h hblock)
  cases i with
  | wrSpiCr1 => exact .writeCr1 (spi_of_busWrite h)
  | wrSpiCr2 => exact .writeCr2 (spi_of_busWrite h)
  | rdSpiSr => cases h; exact .readSr rfl
  | rd8SpiDr =>
    obtain ⟨hwide, hfull⟩ := (refuseIf_next ..).1 h
    obtain ⟨-, hnext⟩ := (refuseIf_next ..).1 hfull
    cases hnext
    exact .pop8 hwide rfl
  | rd16SpiDr =>
    obtain ⟨-, hnext⟩ := (refuseIf_next ..).1 h
    cases hnext
    exact .pop16 rfl
  | wr8SpiDr => exact .push8 (spi_of_onSpi h)
  | wr16SpiDr => exact .push16 (spi_of_onSpi h)
  | evSpiLoad => exact (spi_of_whenEnabled h).elim .same fun ⟨he, hp⟩ => .load he hp
  | evSpiBit => exact (spi_of_whenEnabled h).elim .same fun ⟨he, hp⟩ => .bit he hp
  | evSpiModf => exact (spi_of_whenEnabled h).elim .same fun ⟨he, hp⟩ => .modf he hp
  | rdSpiCr1 | rdSpiCr2 => cases h; exact .same rfl
  | _ => cases hblock

/-! ### The NVIC decoder -/

/-- What an operation can do to the NVIC decoder: nothing, a write, or a new level of an input. -/
inductive NvicMove (p : Params) : Instr → Nvic → Nvic → Prop
  | same {i : Instr} {n n' : Nvic} (h : n' = n) : NvicMove p i n n'
  | setEnables {n n' : Nvic} {r : BitVec 4} {v : Word} (h : n' = n.setEnables r.toNat v) :
      NvicMove p (.wrNvicIser r v) n n'
  | setPriority {n n' : Nvic} {line : BitVec 9} {v : Byte} (h : n' = n.setPriority p.prioBits line.toNat v) :
      NvicMove p (.wrNvicIpr line v) n n'
  | setPending {n n' : Nvic} {line : BitVec 9} {level : Bool} (h : n' = n.setPending line.toNat level) :
      NvicMove p (.evNvicPend line level) n n'

theorem exec_nvicMove (h : exec i s = .next t) : NvicMove s.params i s.nvic t.nvic := by
  by_cases hblock : subBlock i = .nvic
  case neg => exact .same (exec_get h hblock)
  cases i with
  | rdNvicIser | rdNvicIpr => cases ((refuseIf_next ..).1 h).2; exact .same rfl
  | wrNvicIser => cases ((refuseIf_next ..).1 h).2; exact .setEnables rfl
  | wrNvicIpr => cases ((refuseIf_next ..).1 h).2; exact .setPriority rfl
  | evNvicPend => cases ((refuseIf_next ..).1 h).2; exact .setPending rfl
  | _ => cases hblock

/-! ### The NVIC decoder's invariant and its enable bits (44_nvic.md R302, R304) -/

/-- The low bits of every cell stay 0: a write keeps the implemented bits only (R304). -/
theorem NvicMove.keeps_inv {p : Params} {n n' : Nvic} (h : NvicMove p i n n') (hinv : NvicInv p n) : NvicInv p n' := by
  cases h with
  | same h => exact h ▸ hinv
  | setEnables h | setPending h => exact h ▸ ⟨hinv.lowBitsZero⟩
  | @setPriority _ _ line v h =>
    refine h ▸ ⟨fun k j hj => ?_⟩
    rw [Nvic.priority_setPriority _ _ _ _ _ line.isLt]
    split
    · rw [Nvic.getLsbD_keepPriority, decide_eq_false (by omega), Bool.false_and]
    · exact hinv.lowBitsZero k j hj

theorem nvicInv_reset (p : Params) (n : Nvic) : NvicInv p { Nvic.reset with pend := n.pend } := by
  refine ⟨fun k j _ => ?_⟩
  have hcell : Nvic.priority { Nvic.reset with pend := n.pend } k = 0#8 := by
    by_cases hk : k < 512 <;> simp [Nvic.priority, Nvic.reset, hk]
  rw [hcell, BitVec.getLsbD_zero]

/-- Settles O17: every step that writes a priority cell keeps the implemented bits only. -/
theorem nvicInvariantKept : Obligations.NvicInvariantKept := by
  unfold Obligations.NvicInvariantKept
  intro s t hinv h
  refine step_keeps (P := fun s => NvicInv s.params s.nvic) (fun hsame hP => ?_) (fun _ => nvicInv_reset _ _)
    (fun hx hP => ?_) hinv h
  · rwa [hsame.params, hsame.nvic]
  · obtain ⟨-, -, -, -, -, hparams, -⟩ := operationsStayInTheirSubBlock _ _ _ hx
    rw [hparams]
    exact (exec_nvicMove hx).keeps_inv hP

/-- Settles O22: of all operations only a write of ISER changes an enable bit, and it sets bits only. -/
theorem enablesAreNeverTakenBack : Obligations.EnablesAreNeverTakenBack := by
  unfold Obligations.EnablesAreNeverTakenBack
  intro i s t line h
  have hmove := exec_nvicMove h
  generalize s.nvic = n, t.nvic = n' at hmove
  cases hmove with
  | same h => rw [h]; exact ⟨id, fun hoff hon => absurd (hoff.symm.trans hon) nofun⟩
  | setPriority h | setPending h => rw [h]; exact ⟨id, fun hoff hon => absurd (hoff.symm.trans hon) nofun⟩
  | @setEnables _ _ r v h =>
    rw [h, Nvic.enabled_setEnables _ _ _ _ r.isLt]
    refine ⟨fun hon => by rw [hon, Bool.true_or], fun hoff hon => ⟨r, v, rfl, ?_⟩⟩
    rw [hoff, Bool.false_or, Bool.and_eq_true, decide_eq_true_iff] at hon
    exact ⟨hon.1.symm, hon.2⟩

end Sys2Proof.Machine
end

section
/-! PROOF. The USART's invariant through every step (10_state.md section 2, 41_usart.md sections 2 to 6): what it says
of the registers, of the transmitter and of the receiver are three parts, and no move of one part sees another. -/

namespace Sys2Proof.Machine

namespace Usart

/-! ### The parts of the invariant -/

/-- The registers hold no reserved bit or value, and a divisor that fits them while UE = 1 (R22, R23, R170). -/
structure RegistersLegal (cr1 cr2 : Word) (brr : BitVec 16) : Prop where
  cr1Reserved : SetsOnly cr1 [0, 2, 3, 12, 15, 28]
  cr2Reserved : SetsOnly cr2 [12, 13, 23]
  lengthLegal : ¬(UsartCr1.m1 cr1 = true ∧ UsartCr1.m0 cr1 = true)
  stopLegal : UsartCr2.stop cr2 = 0b00#2 ∨ UsartCr2.stop cr2 = 0b10#2
  divisorValid : UsartCr1.ue cr1 = true →
    16 ≤ usartDiv brr (UsartCr1.over8 cr1) ∧ (UsartCr1.over8 cr1 = true → brr.getLsbD 3 = false)

/-- What holds of the transmitter, for the widths it works under. -/
structure TxOk (nOs nData nStop : Nat) (te torn : Bool) (fault : Option Fault) (x : UsartTx)
    (pin txe tc : Bool) : Prop where
  recorded : torn = true → fault = some .txStoppedInFrame
  complete : torn = false → tc = true → x.state = .idle ∧ txe = true
  rests : torn = false → te = false → x.state = .idle
  osc : x.osc < nOs
  bit : x.bit < nData
  stop : x.stop < nStop
  level : torn = false → pin = x.level

/-- The transmitter of a USART is as it should be. -/
def TxInv (u : Usart) : Prop :=
  TxOk u.nOs u.nData u.nStop (UsartCr1.te u.cr1) u.torn u.fault u.tx u.txPin u.isr.txe u.isr.tc

/-- What holds of the receive-timeout detector (R29, R168). -/
structure TimeoutOk (nOs : Nat) (x : UsartRx) : Prop where
  osc : x.rtoOsc < nOs
  cnt : x.rtoCnt < 2 ^ 24
  runs : x.rtoRun = true → x.rtoCnt + 1 < 2 ^ 24

/-- What holds of the receive frame machine (R29). -/
structure FrameOk (nOs nData : Nat) (x : UsartRx) : Prop where
  osc : x.osc < nOs
  stopOsc : x.state = .stop → x.osc < nOs / 2
  bit : x.bit < nData

/-- What holds of the receiver, for the widths it works under. -/
structure RxOk (nOs nData nFrame : Nat) (re : Bool) (x : UsartRx) : Prop where
  rests : re = false → x = .reset
  frame : FrameOk nOs nData x
  idleCnt : x.idleCnt ≤ nFrame * nOs
  timeout : TimeoutOk nOs x

/-- The receiver of a USART is as it should be. -/
def RxInv (u : Usart) : Prop := RxOk u.nOs u.nData u.nFrame (UsartCr1.re u.cr1) u.rx

/-- Everything that UE = 0 puts at reset is there (R185, R351). -/
structure Resting (u : Usart) : Prop where
  brgAcc : u.brgAcc = 0
  tx : u.tx = .reset
  txPin : u.txPin = true
  rx : u.rx = .reset
  txe : u.isr.txe = true
  rxne : u.isr.rxne = false
  torn : u.torn = false

theorem usartInv_iff (u : Usart) : UsartInv u ↔
    RegistersLegal u.cr1 u.cr2 u.brr ∧ (UsartCr1.ue u.cr1 = true → u.brgAcc < u.div) ∧
      (UsartCr1.ue u.cr1 = false → u.Resting) ∧ u.TxInv ∧ u.RxInv := by
  constructor
  · intro h
    refine ⟨⟨h.cr1Reserved, h.cr2Reserved, h.lengthLegal, h.stopLegal, h.divisorValid⟩, h.accBelowDivisor,
      fun hue => ?_, ⟨h.tornIsRecorded, h.completeIsIdle, h.txRestsWhenOff, h.txOsc, h.txBit, h.txStop, h.txPinLevel⟩,
      ⟨h.rxRestsWhenOff, ⟨h.rxOsc, h.rxStopOsc, h.rxBit⟩, h.idleCnt, ⟨h.rtoOsc, h.rtoCnt, h.rtoRuns⟩⟩⟩
    obtain ⟨hacc, htx, hpin, hrx, htxe, hrxne, htorn⟩ := h.offWhenDisabled hue
    exact ⟨hacc, htx, hpin, hrx, htxe, hrxne, htorn⟩
  · rintro ⟨hreg, hacc, hoff, htx, hrx⟩
    exact {
      cr1Reserved := hreg.cr1Reserved, cr2Reserved := hreg.cr2Reserved, lengthLegal := hreg.lengthLegal
      stopLegal := hreg.stopLegal, divisorValid := hreg.divisorValid, accBelowDivisor := hacc
      offWhenDisabled := fun hue =>
        have h := hoff hue
        ⟨h.brgAcc, h.tx, h.txPin, h.rx, h.txe, h.rxne, h.torn⟩
      tornIsRecorded := htx.recorded, completeIsIdle := htx.complete, txRestsWhenOff := htx.rests
      rxRestsWhenOff := hrx.rests, txOsc := htx.osc, txBit := htx.bit, txStop := htx.stop
      rxOsc := hrx.frame.osc, rxStopOsc := hrx.frame.stopOsc, rxBit := hrx.frame.bit, idleCnt := hrx.idleCnt
      rtoOsc := hrx.timeout.osc, rtoCnt := hrx.timeout.cnt, rtoRuns := hrx.timeout.runs, txPinLevel := htx.level }

variable {u f pre : Usart} {p : Bool} {v : Word}

/-! ### At rest -/

theorem nOs_cases (u : Usart) : u.nOs = 16 ∨ u.nOs = 8 := by
  unfold nOs UsartCr1.nOs
  split
  · exact .inr rfl
  · exact .inl rfl

theorem RxInv.of_reset (hrx : u.rx = .reset) : u.RxInv := by
  have hos := u.nOs_pos
  rw [RxInv, hrx]
  exact ⟨fun _ => rfl, ⟨hos, nofun, u.nData_pos⟩, Nat.zero_le _, ⟨hos, by decide, nofun⟩⟩

/-- At rest the widths do not matter. -/
theorem Resting.inv (h : u.Resting) (hreg : RegistersLegal u.cr1 u.cr2 u.brr) : UsartInv u := by
  obtain ⟨hacc, htx, hpin, hrx, htxe, hrxne, htorn⟩ := id h
  refine (usartInv_iff u).2 ⟨hreg, fun hue => ?_, fun _ => h, ?_, .of_reset hrx⟩
  · rw [hacc]
    exact Nat.lt_of_lt_of_le (by decide) (hreg.divisorValid hue).1
  · rw [TxInv, htx, hpin, htxe, htorn]
    exact ⟨nofun, fun _ _ => ⟨rfl, rfl⟩, fun _ _ => rfl, u.nOs_pos, u.nData_pos, u.nStop_pos, fun _ => rfl⟩

/-! ### The transmitter's half of a tick -/

theorem TxInv.tear (h : u.TxInv) (htorn : u.torn = true) : u.tear.TxInv := by
  obtain ⟨hbit, hstop, hosc⟩ := u.tear_widths
  have hwhole : u.tear.torn ≠ false := by simp [Usart.tear, htorn]
  exact ⟨h.recorded, fun h => absurd h hwhole, fun h => absurd h hwhole, hosc, hbit, hstop, fun h => absurd h hwhole⟩

theorem TxInv.txOff (h : u.TxInv) (hte : UsartCr1.te u.cr1 = false) : u.txOff.TxInv := by
  refine ⟨h.recorded, h.complete, h.rests, u.nOs_pos, h.bit, h.stop, fun htorn => ?_⟩
  have hs : u.tx.state = .idle := h.rests htorn hte
  simp [Usart.txOff, UsartTx.level, hs]

/-- The counters and the pin after TXSTEP (R155 to R159). -/
theorem TxInv.txStep_counters (h : u.TxInv) (htorn : u.torn = false) :
    u.txStep.tx.osc < u.nOs ∧ u.txStep.tx.bit < u.nData ∧ u.txStep.tx.stop < u.nStop ∧
      u.txStep.txPin = u.txStep.tx.level := by
  have hos := u.nOs_pos
  rcases Nat.lt_or_ge (u.tx.osc + 1) u.nOs with hosc | hb
  · rw [txStep_between hosc]
    exact ⟨hosc, h.bit, h.stop, h.level htorn⟩
  cases hs : u.tx.state with
  | idle =>
    cases htxe : u.isr.txe
    · rw [txStep_load hb (.inl hs) htxe]
      exact ⟨hos, h.bit, h.stop, rfl⟩
    · rw [txStep_idle_quiet hb hs htxe]
      exact ⟨hos, h.bit, h.stop, by simp [UsartTx.level, hs]⟩
  | start =>
    rw [txStep_start hb hs]
    exact ⟨hos, u.nData_pos, h.stop, rfl⟩
  | data =>
    rcases Nat.lt_or_ge (u.tx.bit + 1) u.nData with hbit | hbit
    · rw [txStep_data_next hb hs hbit]
      exact ⟨hos, hbit, h.stop, by simp [UsartTx.level, hs]⟩
    · rw [txStep_data_last hb hs hbit]
      exact ⟨hos, h.bit, u.nStop_pos, rfl⟩
  | stop =>
    rcases Nat.lt_or_ge (u.tx.stop + 1) u.nStop with hstop | hstop
    · have hpin := h.level htorn
      rw [txStep_stop_next hb hs hstop]
      exact ⟨hos, h.bit, hstop, by simpa [UsartTx.level, hs] using hpin⟩
    cases htxe : u.isr.txe
    · rw [txStep_load hb (.inr ⟨hs, hstop⟩) htxe]
      exact ⟨hos, h.bit, h.stop, rfl⟩
    · rw [txStep_stop_last hb hs hstop htxe]
      exact ⟨hos, h.bit, h.stop, rfl⟩

/-- TXSTEP under the registers and the fault that it leaves alone. -/
theorem TxInv.txStep (h : u.TxInv) (htorn : u.torn = false) (hte : UsartCr1.te u.cr1 = true) : u.txStep.TxInv := by
  obtain ⟨hosc, hbit, hstop, hpin⟩ := h.txStep_counters htorn
  have hcomplete (htc : u.txStep.isr.tc = true) : u.txStep.tx.state = .idle ∧ u.txStep.isr.txe = true := by
    cases hold : u.isr.tc
    · exact txStep_completes hold htc
    · exact (h.complete htorn hold).elim txStep_rests
  have hframe : u.txStep = _ := txStep_frame u
  have hcr1 : u.txStep.cr1 = u.cr1 := by rw [hframe]
  have hcr2 : u.txStep.cr2 = u.cr2 := by rw [hframe]
  have hwhole : u.txStep.torn = false := by rw [hframe]; exact htorn
  rw [TxInv, nOs, nData, nStop, hcr1, hcr2, hwhole, hte]
  exact ⟨nofun, fun _ => hcomplete, nofun, hosc, hbit, hstop, fun _ => hpin⟩

theorem TxInv.txHalf (h : u.TxInv) : u.txHalf.TxInv := by
  cases htorn : u.torn
  · cases hte : UsartCr1.te u.cr1
    · rw [txHalf_off htorn hte]
      exact h.txOff hte
    · rw [txHalf_on htorn hte]
      exact h.txStep htorn hte
  · rw [Usart.txHalf, htorn]
    exact h.tear htorn

/-! ### The receiver's half of a tick -/

theorem FrameOk.rxFrame (h : FrameOk u.nOs u.nData u.rx) (p : Bool) : FrameOk u.nOs u.nData (u.rxFrame p).rx := by
  have hos := u.nOs_cases
  obtain ⟨hosc, hstop, hbit⟩ := h
  cases hs : u.rx.state with
  | hunt =>
    by_cases he : u.rx.prev = true ∧ p = false
    · rw [rxFrame_hunt_edge hs he]
      exact ⟨u.nOs_pos, nofun, hbit⟩
    · rw [rxFrame_hunt_quiet hs he]
      exact ⟨hosc, hstop, hbit⟩
  | start =>
    have notStop {P : Prop} (h : u.rx.state = .stop) : P := nomatch hs.symm.trans h
    by_cases hmid : u.rx.osc + 1 = u.nOs / 2
    · cases p with
      | false =>
        rw [rxFrame_start_confirmed hs hmid]
        exact ⟨by simp only; omega, notStop, hbit⟩
      | true =>
        rw [rxFrame_start_false hs hmid]
        exact ⟨u.nOs_pos, nofun, hbit⟩
    by_cases hend : u.rx.osc + 1 = u.nOs
    · rw [rxFrame_start_end hs hend]
      exact ⟨u.nOs_pos, nofun, u.nData_pos⟩
    · rw [rxFrame_start_between hs hmid hend]
      exact ⟨by simp only; omega, notStop, hbit⟩
  | data =>
    have notStop {P : Prop} (h : u.rx.state = .stop) : P := nomatch hs.symm.trans h
    by_cases hmid : u.rx.osc + 1 = u.nOs / 2
    · rw [rxFrame_data_sample hs hmid]
      exact ⟨by simp only; omega, notStop, hbit⟩
    by_cases hend : u.rx.osc + 1 = u.nOs
    · rcases Nat.lt_or_ge (u.rx.bit + 1) u.nData with hnext | hlast
      · rw [rxFrame_data_next hs hend hnext]
        exact ⟨u.nOs_pos, notStop, hnext⟩
      · rw [rxFrame_data_last hs hend hlast]
        exact ⟨u.nOs_pos, fun _ => by simp only; omega, hbit⟩
    · rw [rxFrame_data_between hs hmid hend]
      exact ⟨by simp only; omega, notStop, hbit⟩
  | stop =>
    have hhalf := hstop hs
    by_cases hmid : u.rx.osc + 1 = u.nOs / 2
    · rw [rxFrame_stop_completed hs hmid, rearm, deliver]
      split <;> exact ⟨u.nOs_pos, nofun, hbit⟩
    · rw [rxFrame_stop_between hs hmid]
      exact ⟨by simp only; omega, fun _ => by simp only; omega, hbit⟩

theorem TimeoutOk.rxFrame (h : TimeoutOk u.nOs u.rx) (p : Bool) : TimeoutOk u.nOs (u.rxFrame p).rx := by
  by_cases hcomp : u.FrameCompleted
  · rw [rxFrame_stop_completed hcomp.1 hcomp.2]
    exact ⟨u.nOs_pos, Nat.two_pow_pos 24, fun _ => Nat.one_lt_two_pow (n := 24) (by decide)⟩
  · obtain ⟨-, hcnt, hosc⟩ := rxFrame_detectorCounters hcomp p
    refine ⟨hosc ▸ h.osc, hcnt ▸ h.cnt, fun hrun => ?_⟩
    rw [hcnt]
    by_cases hconf : u.StartConfirmed p
    · exact absurd hrun (by simp [rxFrame_rtoRun_confirmed hconf])
    · exact h.runs (rxFrame_rtoRun hconf hcomp ▸ hrun)

theorem TimeoutOk.timeoutDetect (h : TimeoutOk f.nOs f.rx) : TimeoutOk f.nOs (timeoutDetect pre f).rx := by
  by_cases hcounts : TimeoutCounts pre f
  case neg => rwa [timeoutDetect_off hcounts]
  have hroom := h.runs hcounts.1
  rcases Nat.lt_or_ge (f.rx.rtoOsc + 1) f.nOs with hosc | hosc
  · rw [timeoutDetect_inside hcounts hosc]
    exact ⟨hosc, h.cnt, h.runs⟩
  rcases Nat.lt_or_ge (f.rx.rtoCnt + 1) f.rto.toNat with hcnt | hcnt
  · rw [timeoutDetect_bitTime hcounts hosc hcnt]
    exact ⟨f.nOs_pos, hroom, fun _ => Nat.lt_of_le_of_lt (Nat.succ_le_of_lt hcnt) f.rto.isLt⟩
  · rw [timeoutDetect_expired hcounts hosc hcnt]
    exact ⟨f.nOs_pos, hroom, nofun⟩

theorem idleDetect_le (pre f : Usart) (p : Bool) : (idleDetect pre p f).rx.idleCnt ≤ pre.nFrame * pre.nOs := by
  by_cases hquiet : pre.HuntsQuietly p
  case neg =>
    rw [idleDetect_busy hquiet]
    exact Nat.zero_le _
  cases p with
  | false =>
    rw [idleDetect_low hquiet]
    exact Nat.zero_le _
  | true =>
    rcases Nat.lt_or_ge (pre.rx.idleCnt + 1) (pre.nFrame * pre.nOs) with hcnt | hcnt
    · rw [idleDetect_counts hquiet hcnt]
      exact hcnt.le
    cases harmed : pre.rx.idleArmed
    · rw [idleDetect_stays hquiet hcnt harmed]
    · rw [idleDetect_sets hquiet hcnt harmed]

theorem RxInv.rxHalf (h : u.RxInv) (p : Bool) :
    RxOk u.nOs u.nData u.nFrame (UsartCr1.re u.cr1) (u.rxHalf p).rx := by
  cases hre : UsartCr1.re u.cr1
  · rw [rxHalf_off hre]
    exact hre ▸ h
  · have hframe : u.rxFrame p = _ := rxFrame_frame u p
    have hos : (u.rxFrame p).nOs = u.nOs := by rw [hframe]; rfl
    have hmachine := h.frame.rxFrame p
    have htimeout : TimeoutOk u.nOs (Usart.timeoutDetect u (u.rxFrame p)).rx := by
      have hafter := h.timeout.rxFrame p
      rw [← hos] at hafter ⊢
      exact hafter.timeoutDetect
    rw [rxHalf_on hre, rxStep_eq]
    exact ⟨nofun, ⟨hmachine.osc, hmachine.stopOsc, hmachine.bit⟩, idleDetect_le u _ p,
      ⟨htimeout.osc, htimeout.cnt, htimeout.runs⟩⟩

/-! ### A tick and a clock cycle (R152, R169) -/

/-- What the invariant says of all but the generator's accumulator, while UE = 1. -/
structure Running (u : Usart) : Prop where
  registers : RegistersLegal u.cr1 u.cr2 u.brr
  tx : u.TxInv
  rx : u.RxInv

theorem Running.inv (h : u.Running) (hue : UsartCr1.ue u.cr1 = true) (hacc : u.brgAcc < u.div) : UsartInv u :=
  (usartInv_iff u).2 ⟨h.registers, fun _ => hacc, fun hoff => absurd (hoff.symm.trans hue) nofun, h.tx, h.rx⟩

theorem running_of_inv (h : UsartInv u) : u.Running :=
  have ⟨hreg, _, _, htx, hrx⟩ := (usartInv_iff u).1 h
  ⟨hreg, htx, hrx⟩

theorem Running.tick (h : u.Running) (p : Bool) : (u.tick p).Running := by
  obtain ⟨hcr1, hcr2, hbrr, -⟩ := u.tick_config p
  have htx : (u.txHalf.withRxOf (u.rxHalf p)).TxInv := h.tx.txHalf
  refine ⟨?_, tick_eq_withRxOf u p ▸ htx, ?_⟩
  · rw [hcr1, hcr2, hbrr]
    exact h.registers
  · rw [RxInv, nFrame, nOs, nData, nStop, hcr1, hcr2, tick_rx]
    exact h.rx.rxHalf p

theorem tick_keeps_inv (h : UsartInv u) (hue : UsartCr1.ue u.cr1 = true) (p : Bool) : UsartInv (u.tick p) := by
  obtain ⟨hcr1, -, hbrr, -, -, hacc, -⟩ := u.tick_config p
  refine ((running_of_inv h).tick p).inv (hcr1 ▸ hue) ?_
  rw [div, hcr1, hbrr, hacc]
  exact h.accBelowDivisor hue

/-- The generator as the cycle that makes a tick leaves it, before the tick (R152). -/
def overflow (u : Usart) : Usart := { u with brgAcc := u.brgAcc + 16 - u.div, draws := u.draws + 1 }

theorem clock_counts (h : u.brgAcc + 16 < u.div) : u.clock = { u with brgAcc := u.brgAcc + 16 } := if_neg h.not_ge

theorem clock_ticks (h : u.div ≤ u.brgAcc + 16) : u.clock = u.overflow.tick (Config.rxDraw u.draws) := if_pos h

theorem clock_keeps_inv (h : UsartInv u) (hue : UsartCr1.ue u.cr1 = true) : UsartInv u.clock := by
  have hacc := h.accBelowDivisor hue
  have hdiv := (h.divisorValid hue).1
  obtain ⟨hreg, htx, hrx⟩ := running_of_inv h
  have moved {acc draws : Nat} (hlt : acc < u.div) : UsartInv { u with brgAcc := acc, draws := draws } :=
    Running.inv ⟨hreg, htx, hrx⟩ hue hlt
  rcases Nat.lt_or_ge (u.brgAcc + 16) u.div with hlt | hle
  · rw [clock_counts hlt]
    exact moved hlt
  · have hlt : u.brgAcc + 16 - u.div < u.div := by omega
    rw [clock_ticks hle]
    exact tick_keeps_inv (moved hlt) hue _

/-! ### Writes of CR1 (R166, R170, R185) -/

theorem stopsInFrame_eq_true_iff : stopsInFrame u v = true ↔
    UsartCr1.ue u.cr1 = true ∧ UsartCr1.te u.cr1 = true ∧ (UsartCr1.te v = false ∨ UsartCr1.ue v = false) ∧
      (u.tx.state ≠ .idle ∨ u.isr.txe = false) := by
  simp [stopsInFrame, and_assoc]

/-- The USART as the check for a stopped transmitter leaves it. -/
def checkStop (u : Usart) (v : Word) : Usart := if stopsInFrame u v then u.recordStop else u

theorem checkStop_stops (h : stopsInFrame u v = true) : u.checkStop v = u.recordStop := if_pos h

theorem checkStop_quiet (h : stopsInFrame u v = false) : u.checkStop v = u := if_neg (by simp [h])

/-- Recording the fault changes the transmitter and what is recorded of it. -/
theorem checkStop_frame (u : Usart) (v : Word) : u.checkStop v = { u with
    tx := (u.checkStop v).tx, txPin := (u.checkStop v).txPin
    isr := { u.isr with txe := (u.checkStop v).isr.txe, tc := (u.checkStop v).isr.tc }
    fault := (u.checkStop v).fault, torn := (u.checkStop v).torn, tears := (u.checkStop v).tears } := by
  unfold checkStop
  split <;> rfl

/-- The receiver as a write of CR1 that keeps UE = 1 leaves it (R166). -/
def rxAfterCr1 (u : Usart) (v : Word) : UsartRx :=
  if UsartCr1.re u.cr1 && !UsartCr1.re v then .reset else u.rx

theorem storeCr1_enabled (hue : UsartCr1.ue v = true) : u.storeCr1 v = { u with cr1 := v, rx := u.rxAfterCr1 v } := by
  rw [storeCr1, if_pos hue, rxAfterCr1]
  split <;> rfl

theorem storeCr1_disabled (hue : UsartCr1.ue v = false) : u.storeCr1 v = { u with
    cr1 := v, isr := .reset, brgAcc := 0, tx := .reset, txPin := true, rx := .reset, torn := false } := by
  rw [storeCr1, if_neg (by simp [hue])]
  split <;> rfl

theorem writeCr1_accepted {u' : Usart} (h : u.writeCr1 v = .next u') :
    UsartCr1.reservedLength v = false ∧ cr1Guarded u.cr1 v = false ∧
      (UsartCr1.ue u.cr1 = false → UsartCr1.ue v = true → badDivisor u.brr (UsartCr1.over8 v) = false) ∧
      u' = (u.checkStop v).storeCr1 v := (writeCr1_next u u' v).1 h

theorem cr1Guarded_eq_false_iff {old : Word} : cr1Guarded old v = false ↔
    (UsartCr1.ue old = true → UsartCr1.ue v = true →
      UsartCr1.m0 v = UsartCr1.m0 old ∧ UsartCr1.m1 v = UsartCr1.m1 old ∧ UsartCr1.over8 v = UsartCr1.over8 old) := by
  unfold cr1Guarded
  cases UsartCr1.ue old <;> cases UsartCr1.ue v <;> simp [and_assoc]

theorem badDivisor_eq_false_iff {brr : BitVec 16} {over8 : Bool} : badDivisor brr over8 = false ↔
    16 ≤ usartDiv brr over8 ∧ (over8 = true → brr.getLsbD 3 = false) := by
  simp [badDivisor]

/-- The transmitter after a write of CR1 that keeps UE = 1 and the widths. -/
theorem TxInv.checkStop (h : u.TxInv) (hue : UsartCr1.ue u.cr1 = true) :
    TxOk u.nOs u.nData u.nStop (UsartCr1.te v) (u.checkStop v).torn (u.checkStop v).fault (u.checkStop v).tx
      (u.checkStop v).txPin (u.checkStop v).isr.txe (u.checkStop v).isr.tc := by
  cases hstops : stopsInFrame u v
  · rw [checkStop_quiet hstops]
    refine ⟨h.recorded, h.complete, fun htorn hte => ?_, h.osc, h.bit, h.stop, h.level⟩
    cases hold : UsartCr1.te u.cr1
    · exact h.rests htorn hold
    · by_contra hs
      exact absurd (stopsInFrame_eq_true_iff.2 ⟨hue, hold, .inl hte, .inl hs⟩) (by simp [hstops])
  · rw [checkStop_stops hstops]
    obtain ⟨hbit, hstop, hosc⟩ := u.tear_widths
    exact ⟨fun _ => rfl, nofun, nofun, hosc, hbit, hstop, nofun⟩

theorem RxInv.rxAfterCr1 (h : u.RxInv) : RxOk u.nOs u.nData u.nFrame (UsartCr1.re v) (u.rxAfterCr1 v) := by
  rw [Usart.rxAfterCr1]
  split
  · have hreset : RxInv { u with rx := .reset } := .of_reset rfl
    exact ⟨fun _ => rfl, hreset.frame, hreset.idleCnt, hreset.timeout⟩
  · next hkept =>
    refine ⟨fun hre => h.rests ?_, h.frame, h.idleCnt, h.timeout⟩
    simpa [hre] using hkept

theorem writeCr1_keeps_inv {u' : Usart} (h : UsartInv u) (hv : SetsOnly v [0, 2, 3, 12, 15, 28])
    (hwrite : u.writeCr1 v = .next u') : UsartInv u' := by
  obtain ⟨hlength, hguard, hdiv, rfl⟩ := writeCr1_accepted hwrite
  obtain ⟨hreg, -, hoff, htx, hrx⟩ := (usartInv_iff u).1 h
  have hlegal : ¬(UsartCr1.m1 v = true ∧ UsartCr1.m0 v = true) := by simpa [UsartCr1.reservedLength] using hlength
  cases hue : UsartCr1.ue v
  · rw [storeCr1_disabled hue, checkStop_frame]
    refine Resting.inv ⟨rfl, rfl, rfl, rfl, rfl, rfl, rfl⟩ ⟨hv, hreg.cr2Reserved, hlegal, hreg.stopLegal, fun hon => ?_⟩
    exact absurd (hue.symm.trans hon) nofun
  rw [storeCr1_enabled hue]
  cases hold : UsartCr1.ue u.cr1
  · obtain ⟨hacc, htx, hpin, hrx, htxe, hrxne, htorn⟩ := hoff hold
    have hquiet : stopsInFrame u v = false := by simp [stopsInFrame, hold]
    rw [checkStop_quiet hquiet]
    refine Resting.inv ⟨hacc, htx, hpin, ?_, htxe, hrxne, htorn⟩
      ⟨hv, hreg.cr2Reserved, hlegal, hreg.stopLegal, fun _ => badDivisor_eq_false_iff.1 (hdiv hold hue)⟩
    rw [Usart.rxAfterCr1, hrx, ite_self]
  · obtain ⟨hm0, hm1, hover8⟩ := cr1Guarded_eq_false_iff.1 hguard hold hue
    have hnOs : UsartCr1.nOs v = u.nOs := by rw [nOs, UsartCr1.nOs, UsartCr1.nOs, hover8]
    have hnData : UsartCr1.nData v = u.nData := by rw [nData, UsartCr1.nData, UsartCr1.nData, hm0, hm1]
    have htx' := htx.checkStop (v := v) hold
    have hrx' := hrx.rxAfterCr1 (v := v)
    have hacc := h.accBelowDivisor hold
    have hvalid := hreg.divisorValid hold
    rw [div, ← hover8] at hacc
    rw [← hover8] at hvalid
    rw [← hnOs, ← hnData] at htx'
    rw [nFrame, ← hnOs, ← hnData] at hrx'
    rw [checkStop_frame]
    exact Running.inv ⟨⟨hv, hreg.cr2Reserved, hlegal, hreg.stopLegal, fun _ => hvalid⟩, htx', hrx'⟩ hue hacc

/-! ### The other writes and the read of RDR (R172 to R182) -/

/-- A stop length that is not reserved is 1 or 2 bits (R23). -/
theorem stop_cases (h : UsartCr2.reservedStop v = false) : UsartCr2.stop v = 0b00#2 ∨ UsartCr2.stop v = 0b10#2 := by
  have hcodes : ∀ c : BitVec 2, (c == 0b01#2 || c == 0b11#2) = false → c = 0b00#2 ∨ c = 0b10#2 := by decide
  exact hcodes _ h

theorem writeCr2_keeps_inv {u' : Usart} (h : UsartInv u) (hv : SetsOnly v [12, 13, 23])
    (hwrite : u.writeCr2 v = .next u') : UsartInv u' := by
  obtain ⟨hreserved, hguard, rfl⟩ := (writeCr2_next _ _ _).1 hwrite
  obtain ⟨hreg, hacc, hoff, htx, hrx⟩ := (usartInv_iff u).1 h
  have hreg' : RegistersLegal u.cr1 v u.brr :=
    ⟨hreg.cr1Reserved, hv, hreg.lengthLegal, stop_cases hreserved, hreg.divisorValid⟩
  cases hue : UsartCr1.ue u.cr1
  · obtain ⟨hacc, htx, hpin, hrx, htxe, hrxne, htorn⟩ := hoff hue
    exact Resting.inv ⟨hacc, htx, hpin, hrx, htxe, hrxne, htorn⟩ hreg'
  · have hnStop : u.nStop = UsartCr2.nStop v := by rw [nStop, UsartCr2.nStop, UsartCr2.nStop, (hguard hue).1]
    rw [TxInv, hnStop] at htx
    rw [RxInv, nFrame, hnStop] at hrx
    exact Running.inv ⟨hreg', htx, hrx⟩ hue (hacc hue)

theorem writeBrr_keeps_inv {u' : Usart} (h : UsartInv u) (hwrite : u.writeBrr v = .next u') : UsartInv u' := by
  obtain ⟨hguard, rfl⟩ := (writeBrr_next _ _ _).1 hwrite
  cases hue : UsartCr1.ue u.cr1
  · obtain ⟨hreg, -, hoff, -⟩ := (usartInv_iff u).1 h
    obtain ⟨hacc, htx, hpin, hrx, htxe, hrxne, htorn⟩ := hoff hue
    exact Resting.inv ⟨hacc, htx, hpin, hrx, htxe, hrxne, htorn⟩
      ⟨hreg.cr1Reserved, hreg.cr2Reserved, hreg.lengthLegal, hreg.stopLegal,
        fun hon => absurd (hue.symm.trans hon) nofun⟩
  · rwa [hguard hue]

/-- New flags that tell of no end of a transmission but one that was told of, and of no character but one that waits. -/
theorem withFlags_keeps_inv {isr : UsartFlags} {tdr : BitVec 9} (h : UsartInv u)
    (htc : isr.tc = true → u.isr.tc = true ∧ isr.txe = u.isr.txe)
    (hoff : UsartCr1.ue u.cr1 = false → isr.txe = u.isr.txe ∧ (u.isr.rxne = false → isr.rxne = false)) :
    UsartInv { u with isr := isr, tdr := tdr } := by
  obtain ⟨hreg, hacc, hrest, htx, hrx⟩ := (usartInv_iff u).1 h
  refine (usartInv_iff _).2 ⟨hreg, hacc, fun hue => ?_, ?_, hrx⟩
  · obtain ⟨hacc, htx, hpin, hrx, htxe, hrxne, htorn⟩ := hrest hue
    obtain ⟨htxe', hrxne'⟩ := hoff hue
    exact ⟨hacc, htx, hpin, hrx, htxe'.trans htxe, hrxne' hrxne, htorn⟩
  · refine ⟨htx.recorded, fun htorn hset => ?_, htx.rests, htx.osc, htx.bit, htx.stop, htx.level⟩
    obtain ⟨hold, htxe'⟩ := htc hset
    obtain ⟨hs, htxe⟩ := htx.complete htorn hold
    exact ⟨hs, htxe'.trans htxe⟩

end Usart

open Usart in
theorem UsartMove.keeps_inv {l : Layout} {i : Instr} {u u' : Usart} (hmove : UsartMove l i u u') (h : UsartInv u) :
    UsartInv u' := by
  cases hmove with
  | same h' => exact h' ▸ h
  | writeCr1 hwrite => exact writeCr1_keeps_inv h (fromBus_setsOnly l .usartCr1 _) hwrite
  | writeCr2 hwrite => exact writeCr2_keeps_inv h (fromBus_setsOnly l .usartCr2 _) hwrite
  | writeBrr hwrite => exact writeBrr_keeps_inv h hwrite
  | writeRtor hwrite =>
    obtain rfl := (writeRtor_next _ _ _).1 hwrite
    obtain ⟨hreg, hacc, hoff, htx, hrx⟩ := (usartInv_iff u).1 h
    refine (usartInv_iff _).2 ⟨hreg, hacc, fun hue => ?_, htx, hrx⟩
    obtain ⟨hacc, htx, hpin, hrx, htxe, hrxne, htorn⟩ := hoff hue
    exact ⟨hacc, htx, hpin, hrx, htxe, hrxne, htorn⟩
  | writeIcr hwrite =>
    obtain rfl := (writeIcr_next _ _ _).1 hwrite
    exact withFlags_keeps_inv h (fun htc => ⟨(Bool.and_eq_true_iff.1 htc).1, rfl⟩) fun _ => ⟨rfl, id⟩
  | writeTdr hwrite =>
    obtain ⟨hue, rfl⟩ := (writeTdr_next _ _ _).1 hwrite
    exact withFlags_keeps_inv h nofun fun hoff => absurd (hue.symm.trans hoff) nofun
  | takeRdr h' => exact h' ▸ withFlags_keeps_inv h (fun htc => ⟨htc, rfl⟩) fun _ => ⟨rfl, fun _ => rfl⟩
  | clock hue h' => exact h' ▸ clock_keeps_inv h hue
  | tick hue h' => exact h' ▸ tick_keeps_inv h hue _

theorem Usart.registersLegal_zero : RegistersLegal 0#32 0#32 0#16 :=
  have hzero (bits : List Nat) : SetsOnly 0#32 bits := fun _ _ => BitVec.getLsbD_zero
  ⟨hzero _, hzero _, by decide, by decide, by decide⟩

/-- After reset the USART is at rest. -/
theorem usartInv_reset (draws tears : Nat) (fault : Option Fault) :
    UsartInv { Usart.reset with draws := draws, fault := fault, tears := tears } :=
  Usart.Resting.inv ⟨rfl, rfl, rfl, rfl, rfl, rfl, rfl⟩ Usart.registersLegal_zero

/-- Settles O14: the transmitter's half of a tick keeps what is said of the transmitter and the receiver's half what is
said of the receiver; a write that changes the widths finds both at rest. -/
theorem usartInvariantKept : Obligations.UsartInvariantKept := by
  unfold Obligations.UsartInvariantKept
  intro s t hinv h
  refine step_keeps (P := fun s => UsartInv s.usart) (fun hsame hP => ?_) (fun _ => usartInv_reset _ _ _)
    (fun hx hP => (exec_usartMove hx).keeps_inv hP) hinv h
  rwa [hsame.usart]

end Sys2Proof.Machine
end

section
/-! PROOF. The I2C's invariant through every step (42_i2c.md sections 1 to 3): what it says of the registers, of the
transfer and of the lines are three parts. -/

namespace Sys2Proof.Machine

/-- Masking sets no bit. -/
theorem setsOnly_and {v : Word} {bits : List Nat} (h : SetsOnly v bits) (w : Word) : SetsOnly (v &&& w) bits :=
  fun j hj => by rw [BitVec.getLsbD_and, h j hj, Bool.false_and]

namespace I2c

/-! ### The parts of the invariant -/

/-- No reserved bit, and START and STOP never both 1 (R222). -/
structure RegistersLegal (cr2 timingr : Word) : Prop where
  cr2Reserved : SetsOnly cr2 (bitsFrom 0 14 ++ bitsFrom 16 25)
  timingrReserved : SetsOnly timingr (bitsFrom 0 23 ++ bitsFrom 28 31)
  notStartAndStop : ¬(I2cCr2.start cr2 = true ∧ I2cCr2.stop cr2 = true)

/-- What PE = 0 puts at reset is there (R232, R351). -/
structure Resting (i : I2c) : Prop where
  phase : i.phase = .idle
  remaining : i.remaining = 0
  shift : i.shift = 0#8
  start : I2cCr2.start i.cr2 = false
  stop : I2cCr2.stop i.cr2 = false
  isr : i.isr = .reset

/-- What the phase says of the flags, of START and STOP and of the bytes left (R205, R211 to R213). -/
structure FlowOk (phase : Phase) (isr : I2cFlags) (start stop : Bool) (remaining : Nat) : Prop where
  complete : isr.tc = true → phase = .tc
  asked : phase = .tc → isr.tc = true ∨ start = true ∨ stop = true
  txis : isr.txis = true ↔ phase = .txWait ∧ isr.txe = true
  busy : isr.busy = true ↔ phase ≠ .idle
  start : phase = .addr → start = true
  bound : remaining ≤ 255
  byteLeft : phase = .txWait ∨ phase = .rxByte → 0 < remaining

/-- What the phase says of the lines (R204). -/
structure LinesOk (phase : Phase) (isr : I2cFlags) (scl sda : Bool) : Prop where
  released : phase = .idle ∨ phase = .lost → scl = true ∧ sda = true
  heldInTc : phase = .tc → scl = false
  heldForTxdr : phase = .txWait → isr.txe = true → scl = false
  heldForRxdr : phase = .rxByte → isr.rxne = true → scl = false

/-- The transfer of an I2C goes as it should. -/
def FlowInv (i : I2c) : Prop := FlowOk i.phase i.isr (I2cCr2.start i.cr2) (I2cCr2.stop i.cr2) i.remaining

/-- The lines of an I2C are as they should be. -/
def LinesInv (i : I2c) : Prop := LinesOk i.phase i.isr i.scl i.sda

theorem i2cInv_iff (i : I2c) : I2cInv i ↔
    RegistersLegal i.cr2 i.timingr ∧ (i.pe = false → i.Resting) ∧ i.FlowInv ∧ i.LinesInv := by
  constructor
  · intro h
    refine ⟨⟨h.cr2Reserved, h.timingrReserved, h.notStartAndStop⟩, fun hpe => ?_,
      ⟨h.completeOnlyInTc, h.completeUnlessAsked, h.txisAsksForByte, h.busyOutsideIdle, h.startHeldInAddr,
        h.remainingBound, h.byteLeft⟩,
      ⟨h.releasedLines, h.heldInTc, h.heldForTxdr, h.heldForRxdr⟩⟩
    obtain ⟨hphase, hremaining, hshift, hstart, hstop, hisr⟩ := h.idleWhenDisabled hpe
    exact ⟨hphase, hremaining, hshift, hstart, hstop, hisr⟩
  · rintro ⟨hreg, hoff, hflow, hlines⟩
    exact {
      cr2Reserved := hreg.cr2Reserved, timingrReserved := hreg.timingrReserved
      notStartAndStop := hreg.notStartAndStop
      idleWhenDisabled := fun hpe =>
        have h := hoff hpe
        ⟨h.phase, h.remaining, h.shift, h.start, h.stop, h.isr⟩
      completeOnlyInTc := hflow.complete, completeUnlessAsked := hflow.asked, txisAsksForByte := hflow.txis
      busyOutsideIdle := hflow.busy, startHeldInAddr := hflow.start, remainingBound := hflow.bound
      byteLeft := hflow.byteLeft, releasedLines := hlines.released, heldInTc := hlines.heldInTc
      heldForTxdr := hlines.heldForTxdr, heldForRxdr := hlines.heldForRxdr }

variable {i i' : I2c} {v : Word}

/-- At rest, with the lines released, all is as it should be. -/
theorem Resting.inv (h : i.Resting) (hreg : RegistersLegal i.cr2 i.timingr) (hlines : i.scl = true ∧ i.sda = true) :
    I2cInv i := by
  obtain ⟨hphase, hremaining, -, hstart, hstop, hisr⟩ := id h
  refine (i2cInv_iff i).2 ⟨hreg, fun _ => h, ?_, ?_⟩
  · rw [FlowInv, hphase, hremaining, hstart, hstop, hisr]
    exact ⟨nofun, nofun, by decide, by decide, nofun, Nat.zero_le _, by decide⟩
  · rw [LinesInv, hphase, hisr]
    exact ⟨fun _ => hlines, nofun, nofun, nofun⟩

/-- While PE = 1 the three parts are all there is. -/
theorem inv_of_enabled (hpe : i.pe = true) (hreg : RegistersLegal i.cr2 i.timingr) (hflow : i.FlowInv)
    (hlines : i.LinesInv) : I2cInv i :=
  (i2cInv_iff i).2 ⟨hreg, fun hoff => absurd (hpe.symm.trans hoff) nofun, hflow, hlines⟩

/-- A sequencer that is not idle is enabled. -/
theorem pe_of_phase (h : I2cInv i) (hphase : i.phase ≠ .idle) : i.pe = true := by
  by_contra hpe
  exact hphase (h.idleWhenDisabled (Bool.eq_false_iff.2 hpe)).1

/-! ### START and STOP -/

theorem start_clearStart (v : Word) : I2cCr2.start (v &&& ~~~I2cCr2.startBit) = false :=
  (getLsbD_and_not_startBit v 13).trans (Bool.and_false _)

theorem stop_clearStart (v : Word) : I2cCr2.stop (v &&& ~~~I2cCr2.startBit) = I2cCr2.stop v :=
  (getLsbD_and_not_startBit v 14).trans (Bool.and_true _)

theorem start_clearStop (v : Word) : I2cCr2.start (v &&& ~~~I2cCr2.stopBit) = I2cCr2.start v :=
  (getLsbD_and_not_stopBit v 13).trans (Bool.and_true _)

theorem stop_clearStop (v : Word) : I2cCr2.stop (v &&& ~~~I2cCr2.stopBit) = false :=
  (getLsbD_and_not_stopBit v 14).trans (Bool.and_false _)

/-- Clearing both is clearing one and then the other. -/
theorem and_not_startBit_or_stopBit (v : Word) :
    v &&& ~~~(I2cCr2.startBit ||| I2cCr2.stopBit) = v &&& ~~~I2cCr2.startBit &&& ~~~I2cCr2.stopBit := by
  rw [BitVec.not_or, BitVec.and_assoc]

theorem RegistersLegal.clearStart {timingr : Word} (h : RegistersLegal v timingr) :
    RegistersLegal (v &&& ~~~I2cCr2.startBit) timingr :=
  ⟨setsOnly_and h.cr2Reserved _, h.timingrReserved, fun hboth => by simp [start_clearStart] at hboth⟩

theorem RegistersLegal.clearStop {timingr : Word} (h : RegistersLegal v timingr) :
    RegistersLegal (v &&& ~~~I2cCr2.stopBit) timingr :=
  ⟨setsOnly_and h.cr2Reserved _, h.timingrReserved, fun hboth => by simp [stop_clearStop] at hboth⟩

/-! ### SCL settled (R204) -/

/-- Where the master holds or clocks SCL, settling it puts it as the phase says. -/
theorem LinesInv.of_settle (hidle : i.phase ≠ .idle) (hlost : i.phase ≠ .lost) : i.settle.LinesInv := by
  have hheld (hclocking : i.clocking = false) : i.settle.scl = false := by simp [settle_scl i hclocking, hidle, hlost]
  rw [LinesInv, settle_phase, settle_isr, settle_sda]
  refine ⟨fun h => (h.elim hidle hlost).elim, fun hphase => hheld ?_, fun hphase htxe => hheld ?_,
    fun hphase hrxne => hheld ?_⟩
  · rw [clocking, hphase]
  · rw [clocking, hphase, htxe]
    rfl
  · rw [clocking, hphase, hrxne]
    rfl

theorem inv_settle (hpe : i.pe = true) (hreg : RegistersLegal i.cr2 i.timingr) (hflow : i.FlowInv)
    (hidle : i.phase ≠ .idle) (hlost : i.phase ≠ .lost) : I2cInv i.settle := by
  have hlines := LinesInv.of_settle hidle hlost
  rw [settle_eq i] at hlines ⊢
  exact inv_of_enabled hpe hreg hflow hlines

/-! ### How a transfer ends early (R216, R217) -/

theorem nackAbort_keeps_inv (hpe : i.pe = true) (hreg : RegistersLegal i.cr2 i.timingr) (acts : List BusAct) :
    I2cInv (i.nackAbort acts) :=
  inv_of_enabled hpe hreg
    ⟨nofun, nofun, by simp [nackAbort], by simp [nackAbort], nofun, Nat.zero_le _, by simp [nackAbort]⟩
    ⟨fun _ => ⟨rfl, rfl⟩, nofun, nofun, nofun⟩

theorem arbitrationLost_keeps_inv (hpe : i.pe = true) (hreg : RegistersLegal i.cr2 i.timingr)
    (hbusy : i.isr.busy = true) (acts : List BusAct) : I2cInv (i.arbitrationLost acts) :=
  inv_of_enabled hpe hreg
    ⟨nofun, nofun, by simp [arbitrationLost], by simp [arbitrationLost, hbusy], nofun, Nat.zero_le _,
      by simp [arbitrationLost]⟩
    ⟨fun _ => ⟨rfl, rfl⟩, nofun, nofun, nofun⟩

/-! ### The steps of the sequencer -/

theorem sStart_keeps_inv (h : I2cInv i) (he : i.startEnabled = true) (hstep : i.sStart = .next i') : I2cInv i' := by
  obtain ⟨-, -, rfl⟩ := (sStart_next _ _).1 hstep
  obtain ⟨hreg, -, hflow, -⟩ := (i2cInv_iff i).1 h
  simp only [startEnabled, Bool.and_eq_true, Bool.or_eq_true, decide_eq_true_iff] at he
  obtain ⟨⟨hpe, hstart⟩, hphase⟩ := he
  have htxis : i.isr.txis = false := by
    rw [Bool.eq_false_iff, Ne, hflow.txis]
    rintro ⟨hwait, -⟩
    simp [hwait] at hphase
  have hbytes : I2cCr2.nbytes i.cr2 ≤ 255 := Nat.le_of_lt_succ (i.cr2.extractLsb' 16 8).isLt
  exact inv_settle hpe hreg
    ⟨nofun, nofun, by simp [htxis], by simp, fun _ => hstart, hbytes, by simp⟩ nofun nofun

theorem sAddr_keeps_inv (h : I2cInv i) (hphase : i.phase = .addr) (ack lost : Bool) : I2cInv (i.sAddr ack lost) := by
  obtain ⟨hreg, -, hflow, -⟩ := (i2cInv_iff i).1 h
  have hpe : i.pe = true := pe_of_phase h (by simp [hphase])
  have hbusy : i.isr.busy = true := hflow.busy.2 (by simp [hphase])
  have htxis : i.isr.txis = false := by simpa [hphase] using hflow.txis
  have htc : i.isr.tc = false := by simpa [hphase] using hflow.complete
  have hcleared := hreg.clearStart
  cases lost
  case true =>
    rw [sAddr_lost]
    exact arbitrationLost_keeps_inv (i := i.startCleared) hpe hcleared hbusy _
  cases ack
  case false =>
    obtain ⟨acts, hacts⟩ := sAddr_nack i
    rw [hacts]
    refine nackAbort_keeps_inv ?_ ?_ acts
    exacts [hpe, hcleared]
  rcases Nat.eq_zero_or_pos i.remaining with hnone | hsome
  · rw [sAddr_done hnone]
    exact inv_settle hpe hcleared
      ⟨fun _ => rfl, fun _ => .inl rfl, by simp [htxis], by simp [hbusy], nofun, hflow.bound, by simp⟩ nofun nofun
  cases hrd : I2cCr2.rdWrn i.cr2
  · rw [sAddr_write hsome hrd]
    exact inv_settle hpe hcleared
      ⟨by simp [htc], nofun, by simp [htxis], by simp [hbusy], nofun, hflow.bound, fun _ => hsome⟩ nofun nofun
  · rw [sAddr_read hsome hrd]
    exact inv_settle hpe hcleared
      ⟨by simp [startCleared, htc], nofun, by simp [startCleared, htxis], by simp [startCleared, hbusy], nofun,
        hflow.bound, fun _ => hsome⟩ nofun nofun

theorem sTxByte_keeps_inv (h : I2cInv i) (he : i.txEnabled = true) (ack lost : Bool) : I2cInv (i.sTxByte ack lost) := by
  obtain ⟨hreg, -, hflow, -⟩ := (i2cInv_iff i).1 h
  simp only [txEnabled, Bool.and_eq_true, decide_eq_true_iff, Bool.not_eq_true'] at he
  obtain ⟨hphase, htxe⟩ := he
  have hpe : i.pe = true := pe_of_phase h (by simp [hphase])
  have hbusy : i.isr.busy = true := hflow.busy.2 (by simp [hphase])
  have htxis : i.isr.txis = false := by simpa [htxe] using hflow.txis
  have htc : i.isr.tc = false := by simpa [hphase] using hflow.complete
  have hbound := hflow.bound
  cases lost
  case true =>
    rw [sTxByte_lost]
    refine arbitrationLost_keeps_inv ?_ ?_ ?_ _
    exacts [hpe, hreg, hbusy]
  cases ack
  case false =>
    rw [sTxByte_nack]
    refine nackAbort_keeps_inv ?_ ?_ _
    exacts [hpe, hreg]
  rcases Nat.lt_or_ge 1 i.remaining with hmore | hlast
  · rw [sTxByte_next hmore]
    exact inv_settle hpe hreg
      ⟨by simp [htc], by simp [hphase], by simp [hphase], by simp [hbusy, hphase], by simp [hphase],
        by simp only; omega, fun _ => Nat.sub_pos_of_lt hmore⟩ (by simp [hphase]) (by simp [hphase])
  · rw [sTxByte_last (Nat.le_antisymm hlast (hflow.byteLeft (.inl hphase)))]
    exact inv_settle hpe hreg
      ⟨fun _ => rfl, fun _ => .inl rfl, by simp [htxis], by simp [hbusy], nofun, Nat.zero_le _, by simp⟩ nofun nofun

theorem sRxByte_keeps_inv (h : I2cInv i) (he : i.rxEnabled = true) (data : Byte) : I2cInv (i.sRxByte data) := by
  obtain ⟨hreg, -, hflow, -⟩ := (i2cInv_iff i).1 h
  simp only [rxEnabled, Bool.and_eq_true, decide_eq_true_iff, Bool.not_eq_true'] at he
  obtain ⟨hphase, -⟩ := he
  have hpe : i.pe = true := pe_of_phase h (by simp [hphase])
  have hbusy : i.isr.busy = true := hflow.busy.2 (by simp [hphase])
  have htxis : i.isr.txis = false := by simpa [hphase] using hflow.txis
  have htc : i.isr.tc = false := by simpa [hphase] using hflow.complete
  have hbound := hflow.bound
  rcases Nat.lt_or_ge 1 i.remaining with hmore | hlast
  · rw [sRxByte_next hmore]
    exact inv_settle hpe hreg
      ⟨by simp [htc], by simp [hphase], by simp [hphase, htxis], by simp [hbusy, hphase], by simp [hphase],
        by simp only; omega, fun _ => Nat.sub_pos_of_lt hmore⟩ (by simp [hphase]) (by simp [hphase])
  · rw [sRxByte_last (Nat.le_antisymm hlast (hflow.byteLeft (.inr hphase)))]
    exact inv_settle hpe hreg
      ⟨fun _ => rfl, fun _ => .inl rfl, by simp [htxis], by simp [hbusy], nofun, Nat.zero_le _, by simp⟩ nofun nofun

theorem sStop_keeps_inv (h : I2cInv i) (he : i.stopEnabled = true) : I2cInv i.sStop := by
  obtain ⟨hreg, -, -, -⟩ := (i2cInv_iff i).1 h
  simp only [stopEnabled, Bool.and_eq_true] at he
  obtain ⟨⟨hpe, -⟩, -⟩ := he
  exact inv_of_enabled hpe hreg.clearStop
    ⟨nofun, nofun, by simp [sStop], by simp [sStop], nofun, Nat.zero_le _, by simp [sStop]⟩
    ⟨fun _ => ⟨rfl, rfl⟩, nofun, nofun, nofun⟩

theorem busFree_keeps_inv (h : I2cInv i) (hphase : i.phase = .lost) : I2cInv i.busFree := by
  obtain ⟨hreg, -, hflow, hlines⟩ := (i2cInv_iff i).1 h
  have hpe : i.pe = true := pe_of_phase h (by simp [hphase])
  have htxis : i.isr.txis = false := by simpa [hphase] using hflow.txis
  have htc : i.isr.tc = false := by simpa [hphase] using hflow.complete
  exact inv_of_enabled hpe hreg
    ⟨by simp [busFree, htc], nofun, by simp [busFree, htxis], by simp [busFree], nofun, hflow.bound, by simp [busFree]⟩
    ⟨fun _ => hlines.released (.inr hphase), nofun, nofun, nofun⟩

/-! ### The writes and the read of RXDR -/

theorem softReset_inv (hreg : RegistersLegal i.cr2 i.timingr) : I2cInv i.softReset := by
  have hcr2 : i.softReset.cr2 = i.cr2 &&& ~~~I2cCr2.startBit &&& ~~~I2cCr2.stopBit := and_not_startBit_or_stopBit i.cr2
  refine Resting.inv ⟨rfl, rfl, rfl, ?_, ?_, rfl⟩ ?_ ⟨rfl, rfl⟩
  · rw [hcr2, start_clearStop, start_clearStart]
  · rw [hcr2, stop_clearStop]
  · rw [hcr2]
    exact hreg.clearStart.clearStop

theorem writeCr1_keeps_inv (h : I2cInv i) (hwrite : i.writeCr1 v = .next i') : I2cInv i' := by
  obtain ⟨hreg, -, hflow, hlines⟩ := (i2cInv_iff i).1 h
  rw [(writeCr1_next _ _ _).1 hwrite]
  split
  · exact inv_of_enabled rfl hreg hflow hlines
  · exact softReset_inv hreg

/-- A write that clears TC has asked for START or STOP (R222). -/
theorem asked_of_asked {tc start stop start' stop' : Bool} (h : tc = true ∨ start = true ∨ stop = true) :
    (tc && !(start' || stop')) = true ∨ (start || start') = true ∨ (stop || stop') = true := by
  revert tc start stop start' stop'
  decide

theorem writeCr2_keeps_inv (h : I2cInv i) (hv : SetsOnly v (Reg.bits .i2cCr2)) (hwrite : i.writeCr2 v = .next i') :
    I2cInv i' := by
  obtain ⟨-, hboth, rfl⟩ := (writeCr2_next _ _ _).1 hwrite
  obtain ⟨hreg, hoff, hflow, hlines⟩ := (i2cInv_iff i).1 h
  obtain ⟨hstart, hstop, hothers⟩ := i2cCr2_make_flags hv (i.newStart v) (i.newStop v)
  have hlegal : RegistersLegal (I2cCr2.make v (i.newStart v) (i.newStop v)) i.timingr := by
    refine ⟨fun j hj => ?_, hreg.timingrReserved, fun ⟨hon, hon'⟩ => ?_⟩
    · have h13 : j ≠ 13 := fun h => hj (by rw [h]; decide)
      have h14 : j ≠ 14 := fun h => hj (by rw [h]; decide)
      rw [hothers j h13 h14]
      exact hv j hj
    · rw [I2cCr2.start, hstart] at hon
      rw [I2cCr2.stop, hstop] at hon'
      cases hpe : i.pe
      · have hstart' := (hoff hpe).start
        simp [newStart, hpe, hstart'] at hon
      · exact hboth ⟨hpe, hon, hon'⟩
  by_cases hpe : i.pe = true
  case neg =>
    rw [Bool.not_eq_true] at hpe
    obtain ⟨hphase, hremaining, hshift, hstart', hstop', hisr⟩ := hoff hpe
    refine Resting.inv ⟨hphase, hremaining, hshift, hstart.trans ?_, hstop.trans ?_, ?_⟩ hlegal
      (hlines.released (.inl hphase))
    · simp [newStart, hpe, hstart']
    · simp [newStop, hpe, hstop']
    · rw [hisr]
      rfl
  have hstart' : I2cCr2.start (I2cCr2.make v (i.newStart v) (i.newStop v)) = (I2cCr2.start i.cr2 || I2cCr2.start v) :=
    hstart.trans (by rw [newStart, hpe, Bool.true_and])
  have hstop' : I2cCr2.stop (I2cCr2.make v (i.newStart v) (i.newStop v)) = (I2cCr2.stop i.cr2 || I2cCr2.stop v) :=
    hstop.trans (by rw [newStop, hpe, Bool.true_and])
  refine inv_of_enabled hpe hlegal ⟨fun htc => hflow.complete (Bool.and_eq_true_iff.1 htc).1, fun hphase => ?_,
    hflow.txis, hflow.busy, fun hphase => ?_, hflow.bound, hflow.byteLeft⟩
    ⟨hlines.released, hlines.heldInTc, hlines.heldForTxdr, hlines.heldForRxdr⟩
  · simp only [hpe, hstart', hstop', Bool.true_and]
    exact asked_of_asked (hflow.asked hphase)
  · simp only [hstart', hflow.start hphase, Bool.true_or]

theorem writeTxdr_keeps_inv (h : I2cInv i) (hwrite : i.writeTxdr v = .next i') : I2cInv i' := by
  obtain ⟨hpe, rfl⟩ := (writeTxdr_next _ _ _).1 hwrite
  obtain ⟨hreg, -, hflow, hlines⟩ := (i2cInv_iff i).1 h
  have hflow' : FlowOk i.phase { i.isr with txe := false, txis := false } (I2cCr2.start i.cr2) (I2cCr2.stop i.cr2)
      i.remaining :=
    ⟨hflow.complete, hflow.asked, by simp, hflow.busy, hflow.start, hflow.bound, hflow.byteLeft⟩
  split
  · next hwait => exact inv_settle hpe hreg hflow' (by simp [hwait.1]) (by simp [hwait.1])
  · exact inv_of_enabled hpe hreg hflow' ⟨hlines.released, hlines.heldInTc, nofun, hlines.heldForRxdr⟩

theorem takeRxdr_keeps_inv (h : I2cInv i) : I2cInv i.takeRxdr := by
  obtain ⟨hreg, hoff, hflow, hlines⟩ := (i2cInv_iff i).1 h
  have hflow' : FlowOk i.phase { i.isr with rxne := false } (I2cCr2.start i.cr2) (I2cCr2.stop i.cr2) i.remaining :=
    ⟨hflow.complete, hflow.asked, hflow.txis, hflow.busy, hflow.start, hflow.bound, hflow.byteLeft⟩
  rw [takeRxdr]
  split
  · next hfull =>
    have hpe : i.pe = true := pe_of_phase h (by simp [hfull.1])
    exact inv_settle hpe hreg hflow' (by simp [hfull.1]) (by simp [hfull.1])
  · refine (i2cInv_iff _).2 ⟨hreg, fun hpe => ?_, hflow', hlines.released, hlines.heldInTc, hlines.heldForTxdr, nofun⟩
    obtain ⟨hphase, hremaining, hshift, hstart, hstop, hisr⟩ := hoff hpe
    exact ⟨hphase, hremaining, hshift, hstart, hstop, by simp only [hisr]; rfl⟩

theorem writeTimingr_keeps_inv (h : I2cInv i) (hv : SetsOnly v (bitsFrom 0 23 ++ bitsFrom 28 31))
    (hwrite : i.writeTimingr v = .next i') : I2cInv i' := by
  obtain ⟨-, rfl⟩ := (writeTimingr_next _ _ _).1 hwrite
  obtain ⟨hreg, hoff, hflow, hlines⟩ := (i2cInv_iff i).1 h
  refine (i2cInv_iff _).2 ⟨⟨hreg.cr2Reserved, hv, hreg.notStartAndStop⟩, fun hpe => ?_, hflow, hlines⟩
  obtain ⟨hphase, hremaining, hshift, hstart, hstop, hisr⟩ := hoff hpe
  exact ⟨hphase, hremaining, hshift, hstart, hstop, hisr⟩

theorem writeIcr_keeps_inv (h : I2cInv i) (hwrite : i.writeIcr v = .next i') : I2cInv i' := by
  obtain rfl := (writeIcr_next _ _ _).1 hwrite
  obtain ⟨hreg, hoff, hflow, hlines⟩ := (i2cInv_iff i).1 h
  refine (i2cInv_iff _).2 ⟨hreg, fun hpe => ?_,
    ⟨hflow.complete, hflow.asked, hflow.txis, hflow.busy, hflow.start, hflow.bound, hflow.byteLeft⟩,
    ⟨hlines.released, hlines.heldInTc, hlines.heldForTxdr, hlines.heldForRxdr⟩⟩
  obtain ⟨hphase, hremaining, hshift, hstart, hstop, hisr⟩ := hoff hpe
  exact ⟨hphase, hremaining, hshift, hstart, hstop, by simp only [hisr]; rfl⟩

end I2c

open I2c in
theorem I2cMove.keeps_inv {l : Layout} {i : Instr} {c c' : I2c} (hmove : I2cMove l i c c') (h : I2cInv c) :
    I2cInv c' := by
  cases hmove with
  | same h' => exact h' ▸ h
  | writeCr1 hwrite => exact writeCr1_keeps_inv h hwrite
  | writeCr2 hwrite => exact writeCr2_keeps_inv h (fromBus_setsOnly l .i2cCr2 _) hwrite
  | writeTimingr hwrite => exact writeTimingr_keeps_inv h (fromBus_setsOnly l .i2cTimingr _) hwrite
  | writeIcr hwrite => exact writeIcr_keeps_inv h hwrite
  | writeTxdr hwrite => exact writeTxdr_keeps_inv h hwrite
  | takeRxdr h' => exact h' ▸ takeRxdr_keeps_inv h
  | start he hstep => exact sStart_keeps_inv h he hstep
  | addr hphase h' => exact h' ▸ sAddr_keeps_inv h hphase _ _
  | txByte he h' => exact h' ▸ sTxByte_keeps_inv h he _ _
  | rxByte he h' => exact h' ▸ sRxByte_keeps_inv h he _
  | stop he h' => exact h' ▸ sStop_keeps_inv h he
  | busFree hphase h' => exact h' ▸ busFree_keeps_inv h hphase

theorem I2c.registersLegal_zero : RegistersLegal 0#32 0#32 :=
  have hzero (bits : List Nat) : SetsOnly 0#32 bits := fun _ _ => BitVec.getLsbD_zero
  ⟨hzero _, hzero _, by decide⟩

/-- After reset the I2C is at rest. -/
theorem i2cInv_reset (draws : Nat) : I2cInv { I2c.reset with draws := draws } :=
  I2c.Resting.inv ⟨rfl, rfl, rfl, BitVec.getLsbD_zero, BitVec.getLsbD_zero, rfl⟩ I2c.registersLegal_zero ⟨rfl, rfl⟩

/-- Settles O15: a step of the sequencer is known by its phase, which is that of an enabled I2C; PE = 0 finds or puts
everything at rest. -/
theorem i2cInvariantKept : Obligations.I2cInvariantKept := by
  unfold Obligations.I2cInvariantKept
  intro s t hinv h
  refine step_keeps (P := fun s => I2cInv s.i2c) (fun hsame hP => ?_) (fun _ => i2cInv_reset _)
    (fun hx hP => (exec_i2cMove hx).keeps_inv hP) hinv h
  rwa [hsame.i2c]

end Sys2Proof.Machine
end

section
/-! PROOF. The SPI's invariant through every step (43_spi.md sections 1 to 4): what it says of the registers, of the
FIFOs, of the shifter, of the clearing sequences and of SCK are five parts. -/

namespace Sys2Proof.Machine

namespace Spi

/-! ### The parts of the invariant -/

/-- No reserved bit, never slave while enabled, and a legal frame width (R37, R270). -/
structure RegistersLegal (cr1 cr2 : Word) : Prop where
  cr1Reserved : SetsOnly cr1 (bitsFrom 0 9 ++ [11, 13])
  cr2Reserved : SetsOnly cr2 (bitsFrom 8 12)
  master : SpiCr1.spe cr1 = true → SpiCr1.mstr cr1 = true
  width : 4 ≤ (SpiCr2.ds cr2).toNat + 1

/-- Four bytes at the most in each FIFO, and wide frames whole (R251). -/
structure FifosOk (frameBytes : Nat) (txf rxf : List Byte) : Prop where
  txBound : txf.length ≤ 4
  rxBound : rxf.length ≤ 4
  wide : frameBytes = 2 → txf.length % 2 = 0 ∧ rxf.length % 2 = 0

/-- What holds of a shifter that is not torn (R257, R263, R264). -/
structure ShifterWhole (spe : Bool) (frameBits : Nat) (sh : Shifter) (wave : List (Bool × Bool)) : Prop where
  enabled : sh.busy = true → spe = true
  inFrame : sh.busy = true → sh.cnt < frameBits
  atRest : sh.busy = false → sh.cnt = 0
  tx : sh.busy = true → ∀ j, frameBits ≤ j → sh.tx.getLsbD j = false
  rx : sh.busy = true → ∀ j, frameBits ≤ j → sh.rx.getLsbD j = false
  wave : sh.busy = true → wave.length = 2 * sh.cnt

/-- What holds of the shifter (R40; log entry 14). -/
structure ShifterOk (spe : Bool) (frameBits : Nat) (sh : Shifter) (wave : List (Bool × Bool)) (torn : Bool)
    (fault : Option Fault) : Prop where
  cnt : sh.cnt ≤ 16
  recorded : torn = true → fault = some .disabledWhileBusy
  whole : torn = false → ShifterWhole spe frameBits sh wave

/-- A sequence is only of a flag that is set (R268). -/
structure SequencesOk (ovrSeq ovr modfSeq modf : Bool) : Prop where
  ovr : ovrSeq = true → ovr = true
  modf : modfSeq = true → modf = true

/-- The FIFOs of an SPI are as they should be. -/
def FifosInv (p : Spi) : Prop := FifosOk p.frameBytes p.txf p.rxf

/-- The shifter of an SPI is as it should be. -/
def ShifterInv (p : Spi) : Prop := ShifterOk (SpiCr1.spe p.cr1) p.frameBits p.sh p.wave p.torn p.fault

/-- The clearing sequences of an SPI are as they should be. -/
def SequencesInv (p : Spi) : Prop := SequencesOk p.ovrSeq p.ovr p.modfSeq p.modf

theorem spiInv_iff (p : Spi) : SpiInv p ↔ RegistersLegal p.cr1 p.cr2 ∧ p.FifosInv ∧ p.ShifterInv ∧ p.SequencesInv ∧
    (SpiCr1.spe p.cr1 = false → p.sck = SpiCr1.cpol p.cr1) := by
  constructor
  · intro h
    exact ⟨⟨h.cr1Reserved, h.cr2Reserved, h.masterWhenEnabled, h.widthLegal⟩, ⟨h.txfBound, h.rxfBound, h.wideFrames⟩,
      ⟨h.cntWidth, h.tornIsRecorded, fun htorn => ⟨h.busyOnlyEnabled htorn, h.cntInFrame htorn, h.cntAtRest htorn,
        h.txInFrame htorn, h.rxInFrame htorn, h.waveOfFrame htorn⟩⟩,
      ⟨h.ovrSequence, h.modfSequence⟩, h.clockAtRest⟩
  · rintro ⟨hreg, hfifos, hsh, hseq, hclock⟩
    exact {
      cr1Reserved := hreg.cr1Reserved, cr2Reserved := hreg.cr2Reserved, masterWhenEnabled := hreg.master
      widthLegal := hreg.width, txfBound := hfifos.txBound, rxfBound := hfifos.rxBound, wideFrames := hfifos.wide
      cntWidth := hsh.cnt, tornIsRecorded := hsh.recorded
      busyOnlyEnabled := fun htorn => (hsh.whole htorn).enabled
      cntInFrame := fun htorn => (hsh.whole htorn).inFrame
      cntAtRest := fun htorn => (hsh.whole htorn).atRest
      txInFrame := fun htorn => (hsh.whole htorn).tx
      rxInFrame := fun htorn => (hsh.whole htorn).rx
      waveOfFrame := fun htorn => (hsh.whole htorn).wave
      ovrSequence := hseq.ovr, modfSequence := hseq.modf, clockAtRest := hclock }

variable {p p' : Spi} {v : Word}

/-- A shifter at rest, whatever the frame width. -/
theorem shifterWhole_of_idle {spe : Bool} {n : Nat} {sh : Shifter} {wave : List (Bool × Bool)}
    (hbusy : sh.busy = false) (hcnt : sh.cnt = 0) : ShifterWhole spe n sh wave := by
  have notBusy {P : Prop} (h : sh.busy = true) : P := nomatch hbusy.symm.trans h
  exact ⟨notBusy, notBusy, fun _ => hcnt, notBusy, notBusy, notBusy⟩

/-! ### The writes of CR1 and CR2 (R270, R272) -/

/-- The SPI as the check for a frame under way leaves it. -/
def checkDisable (p : Spi) (v : Word) : Spi :=
  if SpiCr1.spe p.cr1 && !SpiCr1.spe v && p.underWay then p.recordDisable else p

/-- With SPE = 0 or the fault recorded or nothing under way, a shifter that is whole is at rest. -/
theorem ShifterInv.checkDisable (h : p.ShifterInv) (v : Word) :
    ShifterOk (SpiCr1.spe v) p.frameBits (p.checkDisable v).sh (p.checkDisable v).wave (p.checkDisable v).torn
      (p.checkDisable v).fault := by
  rw [Spi.checkDisable]
  split
  · exact ⟨Nat.le_of_lt_succ (Nat.mod_lt _ (by decide)), fun _ => rfl, nofun⟩
  · next hno =>
    refine ⟨h.cnt, h.recorded, fun htorn => ?_⟩
    have hwhole := h.whole htorn
    cases hbusy : p.sh.busy
    · exact shifterWhole_of_idle hbusy (hwhole.atRest hbusy)
    · have hspe : SpiCr1.spe v = true := by simpa [underWay, hbusy, hwhole.enabled hbusy] using hno
      exact ⟨fun _ => hspe, hwhole.inFrame, hwhole.atRest, hwhole.tx, hwhole.rx, hwhole.wave⟩

theorem FifosInv.checkDisable (h : p.FifosInv) (v : Word) :
    FifosOk p.frameBytes (p.checkDisable v).txf (p.checkDisable v).rxf := by
  rw [Spi.checkDisable]
  split
  · obtain ⟨hbound, hframes⟩ := recordDisable_txf p
    exact ⟨hbound, h.rxBound, fun hwide => ⟨hwide ▸ hframes, (h.wide hwide).2⟩⟩
  · exact h

/-- What the check leaves alone. -/
theorem checkDisable_keeps (p : Spi) (v : Word) : (p.checkDisable v).cr2 = p.cr2 ∧
    (p.checkDisable v).ovrSeq = p.ovrSeq ∧ (p.checkDisable v).ovr = p.ovr ∧ (p.checkDisable v).sck = p.sck := by
  rw [Spi.checkDisable]
  split <;> exact ⟨rfl, rfl, rfl, rfl⟩

/-- CRCNEXT is refused, so CR1 as it is stored does not have it (R262). -/
theorem setsOnly_without_crcnext (hv : SetsOnly v (Reg.bits .spiCr1)) (hcrc : SpiCr1.crcnext v = false) :
    SetsOnly v (bitsFrom 0 9 ++ [11, 13]) := by
  intro j hj
  rcases eq_or_ne j 12 with rfl | h12
  · exact hcrc
  · refine hv j fun hmem => hj ?_
    simp only [Reg.bits, List.mem_append, List.mem_cons, List.not_mem_nil, or_false] at hmem ⊢
    tauto

theorem writeCr1_keeps_inv (h : SpiInv p) (hv : SetsOnly v (Reg.bits .spiCr1)) (hwrite : p.writeCr1 v = .next p') :
    SpiInv p' := by
  obtain ⟨hcrc, hmaster, -, rfl⟩ := (writeCr1_next _ _ _).1 hwrite
  obtain ⟨hreg, hfifos, hsh, hseq, hclock⟩ := (spiInv_iff p).1 h
  obtain ⟨hcr2, hovrSeq, hovr, hsck⟩ := p.checkDisable_keeps v
  have hfifos' := hfifos.checkDisable v
  have hsh' := hsh.checkDisable v
  change SpiInv ((p.checkDisable v).storeCr1 v)
  rw [frameBytes, frameBits, ← hcr2] at hfifos'
  rw [frameBits, ← hcr2] at hsh'
  refine (spiInv_iff _).2 ⟨⟨setsOnly_without_crcnext hv hcrc, ?_, hmaster, ?_⟩, hfifos', hsh', ⟨?_, nofun⟩,
    fun hspe => ?_⟩
  · exact hcr2 ▸ hreg.cr2Reserved
  · exact hcr2 ▸ hreg.width
  · exact hovrSeq ▸ hovr ▸ hseq.ovr
  · have hspe' : SpiCr1.spe v = false := hspe
    simp [storeCr1, hspe']

theorem three_le_forcedDs (v : Word) : 3 ≤ (SpiCr2.forcedDs v).toNat := by
  rw [SpiCr2.forcedDs]
  split
  · decide
  · omega

theorem stored_setsOnly (v : Word) : SetsOnly (SpiCr2.stored v) (bitsFrom 8 12) := by
  refine (setsOnly_iff _ _).2 fun j hj hnot => ?_
  rw [mem_bitsFrom] at hnot
  rw [SpiCr2.stored, BitVec.getLsbD_or, getLsbD_bitWord _ _ _ hj, BitVec.getLsbD_shiftLeft]
  have h12 : j ≠ 12 := by omega
  rcases Nat.lt_or_ge j 8 with hlow | hhigh
  · simp [h12, hlow]
  · have hds : ((SpiCr2.forcedDs v).setWidth 32).getLsbD (j - 8) = false := by
      rw [BitVec.getLsbD_setWidth, BitVec.getLsbD_of_ge _ _ (by omega), Bool.and_false]
    simp [h12, hds]

theorem writeCr2_keeps_inv (h : SpiInv p) (hwrite : p.writeCr2 v = .next p') : SpiInv p' := by
  obtain ⟨henabled, hholds, rfl⟩ := (writeCr2_next _ _ _).1 hwrite
  obtain ⟨hreg, hfifos, hsh, hseq, hclock⟩ := (spiInv_iff p).1 h
  obtain ⟨hds, -⟩ := stored_fields v
  have hwidth : 4 ≤ (SpiCr2.ds (SpiCr2.stored v)).toNat + 1 := by
    rw [hds]
    exact Nat.succ_le_succ (three_le_forcedDs v)
  refine (spiInv_iff _).2 ⟨⟨hreg.cr1Reserved, stored_setsOnly v, hreg.master, hwidth⟩, ?_, ?_, hseq, hclock⟩
  · cases hdata : p.holdsData
    · have hempty : p.txf = [] ∧ p.rxf = [] := by simpa [holdsData] using hdata
      obtain ⟨htxf, hrxf⟩ := hempty
      rw [FifosInv, htxf, hrxf]
      exact ⟨Nat.zero_le _, Nat.zero_le _, fun _ => ⟨rfl, rfl⟩⟩
    · rw [FifosInv, frameBytes, frameBits, hds, hholds hdata]
      exact hfifos
  · refine ⟨hsh.cnt, hsh.recorded, fun htorn => ?_⟩
    have hwhole := hsh.whole htorn
    cases hbusy : p.sh.busy
    · exact shifterWhole_of_idle hbusy (hwhole.atRest hbusy)
    · rw [frameBits, hds, (henabled (hwhole.enabled hbusy)).1]
      exact hwhole

/-! ### SR and DR (R254 to R256) -/

theorem afterSrRead_keeps_inv (h : SpiInv p) : SpiInv p.afterSrRead := by
  obtain ⟨hreg, hfifos, hsh, hseq, hclock⟩ := (spiInv_iff p).1 h
  refine (spiInv_iff _).2 ⟨hreg, hfifos, hsh, ⟨nofun, fun hmodf => ?_⟩, hclock⟩
  exact (Bool.or_eq_true_iff.1 hmodf).elim hseq.modf id

theorem pop_keeps_inv (h : SpiInv p) {k : Nat} (hk : p.frameBytes = 2 → k % 2 = 0) : SpiInv (p.pop k) := by
  obtain ⟨hreg, hfifos, hsh, hseq, hclock⟩ := (spiInv_iff p).1 h
  have hlength : (p.rxf.drop k).length = p.rxf.length - k := List.length_drop
  have hbound := hfifos.rxBound
  refine (spiInv_iff _).2 ⟨hreg, ⟨hfifos.txBound, ?_, fun hwide => ⟨(hfifos.wide hwide).1, ?_⟩⟩, hsh,
    ⟨fun hovr => ?_, hseq.modf⟩, hclock⟩
  · exact hlength.trans_le (Nat.le_trans (Nat.sub_le _ _) hbound)
  · have hk' := hk hwide
    have hrxf := (hfifos.wide hwide).2
    exact (congrArg (· % 2) hlength).trans (by omega)
  · exact (Bool.or_eq_true_iff.1 hovr).elim hseq.ovr id

/-- Whole frames more in the transmit FIFO. -/
theorem push_keeps_inv (h : SpiInv p) {bytes : List Byte} (hroom : p.txf.length + bytes.length ≤ 4)
    (hwide : p.frameBytes = 2 → bytes.length % 2 = 0) : SpiInv { p with txf := p.txf ++ bytes } := by
  obtain ⟨hreg, hfifos, hsh, hseq, hclock⟩ := (spiInv_iff p).1 h
  have hlength : (p.txf ++ bytes).length = p.txf.length + bytes.length := List.length_append
  refine (spiInv_iff _).2 ⟨hreg, ⟨hlength.trans_le hroom, hfifos.rxBound, fun hw => ⟨?_, (hfifos.wide hw).2⟩⟩,
    hsh, hseq, hclock⟩
  have hbytes := hwide hw
  have htxf := (hfifos.wide hw).1
  exact (congrArg (· % 2) hlength).trans (by omega)

theorem push8_keeps_inv (h : SpiInv p) {b : Byte} (hwrite : p.push8 b = .next p') : SpiInv p' := by
  obtain ⟨hnarrow, hroom, rfl⟩ := (push8_next _ _ _).1 hwrite
  exact push_keeps_inv h hroom fun hwide => absurd hwide hnarrow

theorem push16_keeps_inv (h : SpiInv p) {b : BitVec 16} (hwrite : p.push16 b = .next p') : SpiInv p' := by
  obtain ⟨hroom, rfl⟩ := (push16_next _ _ _).1 hwrite
  exact push_keeps_inv h hroom fun _ => Nat.mod_self 2

/-! ### The shifter's steps (R263 to R267) -/

theorem sLoad_keeps_inv (h : SpiInv p) (he : p.loadEnabled = true) : SpiInv p.sLoad := by
  obtain ⟨hreg, hfifos, hsh, hseq, hclock⟩ := (spiInv_iff p).1 h
  have hspe : SpiCr1.spe p.cr1 = true := (BitsLeft.of_load he).spe
  have hlength : (p.txf.drop p.frameBytes).length = p.txf.length - p.frameBytes := List.length_drop
  have hwidth : 0 < p.frameBits := Nat.succ_pos _
  refine (spiInv_iff _).2 ⟨hreg, ⟨?_, hfifos.rxBound, fun hwide => ⟨?_, (hfifos.wide hwide).2⟩⟩,
    ⟨Nat.zero_le _, hsh.recorded, fun _ => ⟨fun _ => hspe, fun _ => hwidth, nofun, fun _ j hj => ?_, fun _ j _ => ?_,
      fun _ => rfl⟩⟩, hseq, hclock⟩
  · exact hlength.trans_le (Nat.le_trans (Nat.sub_le _ _) hfifos.txBound)
  · have htxf := (hfifos.wide hwide).1
    have hwide' : p.frameBytes = 2 := hwide
    exact (congrArg (· % 2) hlength).trans (by omega)
  · have hout : ¬j < p.frameBits := Nat.not_lt.2 hj
    exact (getLsbD_lowBits _ p.frameBits_le _ j).trans (by rw [decide_eq_false hout, Bool.and_false])
  · exact BitVec.getLsbD_zero

theorem bitIndex_lt (h : p.sh.cnt < p.frameBits) : p.bitIndex < p.frameBits := by
  rw [bitIndex]
  split <;> omega

theorem frameAsBytes_length (p : Spi) (rx : BitVec 16) : (p.frameAsBytes rx).length = p.frameBytes := by
  rw [frameAsBytes]
  obtain h | h := p.frameBytes_cases
  · rw [if_pos h, h]
    rfl
  · rw [if_neg (by omega), h]
    rfl

theorem frameDone_rxf (p : Spi) : p.frameDone.rxf =
    if p.rxf.length + p.frameBytes ≤ 4 then p.rxf ++ p.frameAsBytes p.sh.rx else p.rxf := rfl

theorem frameDone_ovr (p : Spi) : p.frameDone.ovr = if p.rxf.length + p.frameBytes ≤ 4 then p.ovr else true := rfl

/-- The FIFOs as the end of a frame leaves them (R265). -/
theorem FifosInv.frameDone (h : p.FifosInv) : p.frameDone.FifosInv := by
  have hbytes := p.frameAsBytes_length p.sh.rx
  have hrx : p.frameDone.rxf.length =
      if p.rxf.length + p.frameBytes ≤ 4 then p.rxf.length + p.frameBytes else p.rxf.length := by
    rw [frameDone_rxf, apply_ite List.length, List.length_append, hbytes]
  refine ⟨h.txBound, ?_, fun hwide => ⟨(h.wide hwide).1, ?_⟩⟩
  · rw [hrx]
    split
    · assumption
    · exact h.rxBound
  · have hwide' : p.frameBytes = 2 := hwide
    have hrxf := (h.wide hwide).2
    rw [hrx]
    split <;> omega

/-- The end of a frame leaves the shifter at rest, whatever the frame was (R265). -/
theorem frameDone_inv (hreg : RegistersLegal p.cr1 p.cr2) (hfifos : p.FifosInv)
    (hrecorded : p.torn = true → p.fault = some .disabledWhileBusy) (hseq : p.SequencesInv)
    (hspe : SpiCr1.spe p.cr1 = true) : SpiInv p.frameDone :=
  (spiInv_iff _).2 ⟨hreg, hfifos.frameDone, ⟨Nat.zero_le _, hrecorded, fun _ => shifterWhole_of_idle rfl rfl⟩,
    ⟨fun hovr => by rw [frameDone_ovr, hseq.ovr hovr, ite_self], hseq.modf⟩, fun hoff => nomatch hspe.symm.trans hoff⟩

theorem sBit_keeps_inv (h : SpiInv p) (he : p.bitEnabled = true) (miso : Bool) : SpiInv (p.sBit miso) := by
  obtain ⟨hreg, hfifos, hsh, hseq, hclock⟩ := (spiInv_iff p).1 h
  obtain ⟨hspe, hbusy⟩ := Bool.and_eq_true_iff.1 he
  have hoff {P : Prop} (hoff : SpiCr1.spe p.cr1 = false) : P := nomatch hspe.symm.trans hoff
  rcases Nat.lt_or_ge (p.sh.cnt + 1) p.frameBits with hnext | hlast
  · have hwidth := p.frameBits_le
    rw [sBit_next hnext]
    refine (spiInv_iff _).2 ⟨hreg, hfifos,
      ⟨Nat.le_of_lt (Nat.lt_of_lt_of_le hnext hwidth), hsh.recorded, fun htorn => ?_⟩, hseq, hoff⟩
    have hwhole := hsh.whole htorn
    refine ⟨fun _ => hspe, fun _ => hnext, fun hrest => (nomatch hbusy.symm.trans hrest), hwhole.tx, fun _ j hj => ?_,
      fun _ => ?_⟩
    · have hindex := bitIndex_lt (hwhole.inFrame hbusy)
      have hout : j ≠ p.bitIndex := Nat.ne_of_gt (Nat.lt_of_lt_of_le hindex hj)
      exact (getLsbD_setFrameBit _ _ _ (Nat.lt_of_lt_of_le hindex hwidth) j).trans
        ((if_neg hout).trans (hwhole.rx hbusy j hj))
    · have hwave := hwhole.wave hbusy
      simp [exchange, SpiCr1.bitWave, hwave, Nat.mul_add]
  · rw [sBit_last hlast]
    exact frameDone_inv (p := p.exchange miso) hreg hfifos hsh.recorded hseq hspe

theorem sModf_keeps_inv (h : SpiInv p) (nssIn : Bool) : SpiInv (p.sModf nssIn) := by
  obtain ⟨hreg, hfifos, hsh, hseq, hclock⟩ := (spiInv_iff p).1 h
  rw [sModf]
  split
  · exact h
  have hspe : SpiCr1.spe (p.cr1 &&& ~~~(SpiCr1.speBit ||| SpiCr1.mstrBit)) = false := by
    simp [SpiCr1.spe, SpiCr1.speBit, SpiCr1.mstrBit]
  have hcpol : SpiCr1.cpol (p.cr1 &&& ~~~(SpiCr1.speBit ||| SpiCr1.mstrBit)) = SpiCr1.cpol p.cr1 := by
    simp [SpiCr1.cpol, SpiCr1.speBit, SpiCr1.mstrBit]
  exact (spiInv_iff _).2 ⟨⟨setsOnly_and hreg.cr1Reserved _, hreg.cr2Reserved,
      fun hon => (nomatch hspe.symm.trans hon), hreg.width⟩, hfifos,
    ⟨Nat.zero_le _, hsh.recorded, fun _ => shifterWhole_of_idle rfl rfl⟩, ⟨hseq.ovr, fun _ => rfl⟩,
    fun _ => hcpol.symm⟩

end Spi

open Spi in
theorem SpiMove.keeps_inv {l : Layout} {i : Instr} {p p' : Spi} (hmove : SpiMove l i p p') (h : SpiInv p) :
    SpiInv p' := by
  cases hmove with
  | same h' => exact h' ▸ h
  | writeCr1 hwrite => exact writeCr1_keeps_inv h (fromBus_setsOnly l .spiCr1 _) hwrite
  | writeCr2 hwrite => exact writeCr2_keeps_inv h hwrite
  | readSr h' => exact h' ▸ afterSrRead_keeps_inv h
  | pop8 hwide h' => exact h' ▸ pop_keeps_inv h fun hw => absurd hw (of_decide_eq_false hwide)
  | pop16 h' => exact h' ▸ pop_keeps_inv h fun _ => rfl
  | push8 hwrite => exact push8_keeps_inv h hwrite
  | push16 hwrite => exact push16_keeps_inv h hwrite
  | load he h' => exact h' ▸ sLoad_keeps_inv h he
  | bit he h' => exact h' ▸ sBit_keeps_inv h he _
  | modf he h' => exact h' ▸ sModf_keeps_inv h _

open Spi in
/-- After reset the FIFOs are empty and the shifter is at rest. -/
theorem spiInv_reset (tears : Nat) (fault : Option Fault) :
    SpiInv { Spi.reset with fault := fault, tears := tears } := by
  have hreg : RegistersLegal 0#32 0x700#32 := by
    refine ⟨fun _ _ => BitVec.getLsbD_zero, (setsOnly_iff _ _).2 ?_, by decide, by decide⟩
    decide
  exact (spiInv_iff _).2 ⟨hreg, ⟨Nat.zero_le _, Nat.zero_le _, fun _ => ⟨rfl, rfl⟩⟩,
    ⟨Nat.zero_le _, nofun, fun _ => shifterWhole_of_idle rfl rfl⟩, ⟨nofun, nofun⟩, fun _ => BitVec.getLsbD_zero.symm⟩

/-- Settles O16: each move changes one of the parts; the check for a frame under way leaves a shifter that is at rest,
or torn with its fault recorded. -/
theorem spiInvariantKept : Obligations.SpiInvariantKept := by
  unfold Obligations.SpiInvariantKept
  intro s t hinv h
  refine step_keeps (P := fun s => SpiInv s.spi) (fun hsame hP => ?_) (fun _ => spiInv_reset _ _)
    (fun hx hP => (exec_spiMove hx).keeps_inv hP) hinv h
  rwa [hsame.spi]

end Sys2Proof.Machine
end

section
/-! PROOF. The law of the layout (00_scope.md R6, 10_state.md R20): moving a register's bits to their places and
back. -/

namespace Sys2Proof

/-! ### The registers and the layout of 10_state.md -/

theorem Reg.bits_nodup (r : Reg) : r.bits.Nodup := by cases r <;> decide

theorem Reg.bits_lt (r : Reg) : ∀ j ∈ r.bits, j < 32 := by cases r <;> decide

theorem Reg.mem_all (r : Reg) : r ∈ Reg.all := by cases r <;> decide

theorem Layout.default_pos (r : Reg) : (Layout.default.of r).pos = r.bits := by cases r <;> rfl

theorem Layout.default_apart : ∀ r ∈ Reg.all, ∀ q ∈ Reg.all, r.blk = q.blk →
    (Layout.default.of r).off = (Layout.default.of q).off → r = q := by decide

theorem Layout.default_valid : Machine.LayoutValid .default where
  aligned r := by cases r <;> rfl
  inWindow r := by cases r <;> decide
  apart r q := Layout.default_apart r r.mem_all q q.mem_all
  onePlace r := by rw [Layout.default_pos]
  ownPlace r := by rw [Layout.default_pos]; exact r.bits_nodup
  inWord r := by rw [Layout.default_pos]; exact r.bits_lt

end Sys2Proof

namespace Sys2Proof.Machine

variable {l : Layout} {src dst : List Nat} {w : Word}

/-! ### Where a layout puts the bits of a register -/

theorem getLsbD_moveBits_of_getElem? (hd : dst.Nodup) (hdw : ∀ j ∈ dst, j < 32) {k a b : Nat}
    (ha : src[k]? = some a) (hb : dst[k]? = some b) : (moveBits src dst w).getLsbD b = w.getLsbD a := by
  obtain ⟨hs, rfl⟩ := List.getElem?_eq_some_iff.1 ha
  obtain ⟨hk, rfl⟩ := List.getElem?_eq_some_iff.1 hb
  exact getLsbD_moveBits src dst w hd k hs hk (hdw _ (List.getElem_mem hk))

/-- Bits moved to places of their own come back as they were. -/
theorem moveBits_moveBits (hs : src.Nodup) (hd : dst.Nodup) (hsw : ∀ j ∈ src, j < 32) (hdw : ∀ j ∈ dst, j < 32)
    (hlength : src.length = dst.length) (hw : SetsOnly w src) : moveBits dst src (moveBits src dst w) = w := by
  refine BitVec.eq_of_getLsbD_eq fun j _ => ?_
  by_cases hj : j ∈ src
  · obtain ⟨k, hk, rfl⟩ := List.getElem_of_mem hj
    have hk' : k < dst.length := hlength ▸ hk
    rw [getLsbD_moveBits_of_getElem? hs hsw (List.getElem?_eq_getElem hk') (List.getElem?_eq_getElem hk),
      getLsbD_moveBits_of_getElem? hd hdw (List.getElem?_eq_getElem hk) (List.getElem?_eq_getElem hk')]
  · rw [moveBits_setsOnly _ _ _ j hj, hw j hj]

section Valid

variable (hl : LayoutValid l) (r : Reg)
include hl

theorem toBus_fromBus {v : Word} (hv : SetsOnly v (l.of r).pos) : toBus l r (fromBus l r v) = v :=
  moveBits_moveBits (hl.ownPlace r) r.bits_nodup (hl.inWord r) r.bits_lt (hl.onePlace r) hv

theorem fromBus_toBus (hw : SetsOnly w r.bits) : fromBus l r (toBus l r w) = w :=
  moveBits_moveBits r.bits_nodup (hl.ownPlace r) r.bits_lt (hl.inWord r) (hl.onePlace r).symm hw

end Valid

theorem Params.default_valid : ParamsValid .default := ⟨rfl, by decide, by decide, Layout.default_valid⟩

/-- Where every bit is at its own place nothing moves. -/
theorem moveBits_self_of_setsOnly {bits : List Nat} (hb : bits.Nodup) (hw : SetsOnly w bits) :
    moveBits bits bits w = w := by
  refine BitVec.eq_of_getLsbD_eq fun j hj => ?_
  rw [moveBits_self bits w hb j hj]
  by_cases hmem : j ∈ bits
  · rw [decide_eq_true hmem, Bool.and_true]
  · rw [hw j hmem, Bool.false_and]

/-- Settles O6: the places of a register's bits are different and inside the word, so each bit is moved to its own place
and nothing is moved on top of it. -/
theorem layoutMovesBits : Obligations.LayoutMovesBits := by
  unfold Obligations.LayoutMovesBits
  refine ⟨fun l hl r v w => ⟨fun k b p hb hp => ⟨?_, ?_⟩, toBus_setsOnly l r w, fromBus_setsOnly l r v,
    toBus_fromBus hl r, fromBus_toBus hl r⟩, Params.default_valid, fun r w hw => ?_⟩
  · exact getLsbD_moveBits_of_getElem? (hl.ownPlace r) (hl.inWord r) hb hp
  · exact getLsbD_moveBits_of_getElem? r.bits_nodup r.bits_lt hp hb
  · have hself := moveBits_self_of_setsOnly r.bits_nodup hw
    rw [toBus, fromBus, Layout.default_pos]
    exact ⟨hself, hself⟩

end Sys2Proof.Machine
end
section
/-! PROOF. What the schedule gives is what a step runs (00_scope.md R10; log entry 1). -/

namespace Sys2Proof.Machine

variable {s : State} {turns : List Turn}

/-! ### Fetching case by case -/

theorem fetchHost_done (h : s.hostStream = []) : fetchHost s = .idle s := by
  rw [fetchHost, h]

theorem fetchHost_run {i : Instr} {rest : List Word} (h : decodeBus s.params s.hostStream = .ok (i, rest)) :
    fetchHost s = .run i { s with hostStream := rest } := by
  rw [fetchHost]
  cases hstream : s.hostStream with
  | nil =>
    rw [hstream] at h
    cases h
  | cons cmd more =>
    rw [hstream] at h
    simp only [h]

theorem fetchHost_reject {r : Reject} (hstream : s.hostStream ≠ []) (h : decodeBus s.params s.hostStream = .error r) :
    fetchHost s = .reject (refusalOf r) := by
  rw [fetchHost]
  obtain ⟨cmd, more, hcons⟩ := List.exists_cons_of_ne_nil hstream
  rw [hcons] at h ⊢
  simp only [h]

theorem fetchAgent_done (h : s.agentStream = []) : fetchAgent s = .idle s := by
  rw [fetchAgent, h]

theorem fetchAgent_run {i : Instr} {rest : List Byte} (h : decodeEvent s.params s.agentStream = .ok (i, rest)) :
    fetchAgent s = .run i { s with agentStream := rest } := by
  rw [fetchAgent]
  cases hstream : s.agentStream with
  | nil =>
    rw [hstream] at h
    cases h
  | cons label more =>
    rw [hstream] at h
    simp only [h]

theorem fetchAgent_reject {r : Reject} (hstream : s.agentStream ≠ [])
    (h : decodeEvent s.params s.agentStream = .error r) : fetchAgent s = .reject (refusalOf r) := by
  rw [fetchAgent]
  obtain ⟨label, more, hcons⟩ := List.exists_cons_of_ne_nil hstream
  rw [hcons] at h ⊢
  simp only [h]

/-! ### A step case by case -/

theorem step_of_idle {t : State} (h : fetch s = .idle t) : step s = .next t := by
  simp only [step, h]

theorem step_of_run {i : Instr} {t : State} (h : fetch s = .run i t) : step s = exec i t := by
  simp only [step, h]

theorem step_of_reject {r : Refusal} (h : fetch s = .reject r) : step s = .refused r := by
  simp only [step, h]

theorem fetch_done (h : s.turns = []) : fetch s = .idle s := by
  simp only [fetch, h]

theorem fetch_reset (h : s.turns = .reset :: turns) : fetch s = .reset { s with turns := turns } := by
  simp only [fetch, h]

theorem fetch_host (h : s.turns = .host :: turns) : fetch s = fetchHost { s with turns := turns } := by
  simp only [fetch, h]

theorem fetch_agent (h : s.turns = .agent :: turns) : fetch s = fetchAgent { s with turns := turns } := by
  simp only [fetch, h]

theorem step_reset (h : s.turns = .reset :: turns) : step s = .next (resetStep { s with turns := turns }) := by
  simp only [step, fetch_reset h]

theorem step_host_run (h : s.turns = .host :: turns) {i : Instr} {rest : List Word}
    (hdecode : decodeBus s.params s.hostStream = .ok (i, rest)) :
    step s = exec i { s with turns := turns, hostStream := rest } :=
  step_of_run ((fetch_host h).trans (fetchHost_run hdecode))

theorem step_agent_run (h : s.turns = .agent :: turns) {i : Instr} {rest : List Byte}
    (hdecode : decodeEvent s.params s.agentStream = .ok (i, rest)) :
    step s = exec i { s with turns := turns, agentStream := rest } :=
  step_of_run ((fetch_agent h).trans (fetchAgent_run hdecode))

/-- Settles O8: the schedule says who moves and the mover's stream what is fetched. -/
theorem stepFollowsTheSchedule : Obligations.StepFollowsTheSchedule := by
  unfold Obligations.StepFollowsTheSchedule
  refine fun s => ⟨fun h => step_of_idle (fetch_done h), fun turns h => step_reset h,
    fun turns h => ⟨fun hstream => ?_, fun i rest => step_host_run h, fun r hstream hdecode => ?_⟩,
    fun turns h => ⟨fun hstream => ?_, fun i rest => step_agent_run h, fun r hstream hdecode => ?_⟩⟩
  · exact step_of_idle ((fetch_host h).trans (fetchHost_done hstream))
  · exact step_of_reject ((fetch_host h).trans (fetchHost_reject hstream hdecode))
  · exact step_of_idle ((fetch_agent h).trans (fetchAgent_done hstream))
  · exact step_of_reject ((fetch_agent h).trans (fetchAgent_reject hstream hdecode))

/-- Settles O9: what is put at the front of the mover's stream is what is decoded from it, and taking it leaves the
state into which it was put. -/
theorem placedOperationIsTheNextStep : Obligations.PlacedOperationIsTheNextStep := by
  unfold Obligations.PlacedOperationIsTheNextStep
  intro i s hvalid hwf
  obtain ⟨hbus, hevent⟩ := decodeOfEncode s.params hvalid i hwf
  cases hencode : encode s.params.layout i with
  | bus words => exact step_host_run rfl (hbus words hencode s.hostStream)
  | event bytes => exact step_agent_run rfl (hevent bytes hencode s.agentStream)

/-- Settles O5: the row of each word and label is found by evaluating the decoder. -/
theorem wordsOfTheSpecDecode : Obligations.WordsOfTheSpecDecode := by
  unfold Obligations.WordsOfTheSpecDecode
  exact ⟨rfl, rfl, rfl, rfl, rfl, rfl, rfl, rfl, rfl, rfl, rfl⟩

end Sys2Proof.Machine
end

section
/-! PROOF. The reset step and the state after reset (70_reset_and_hazards.md section 1, 10_state.md section 7). -/

namespace Sys2Proof.Machine

variable {s : State} {e : Instr}

/-! ### After a reset step nothing is enabled (R350) -/

theorem usart_off_after_reset (s : State) : UsartCr1.ue (resetStep s).usart.cr1 = false := BitVec.getLsbD_zero

theorem spi_off_after_reset (s : State) : SpiCr1.spe (resetStep s).spi.cr1 = false := BitVec.getLsbD_zero

/-- No step of the block's agents is enabled while UE, PE and SPE are 0 and the sequencer is idle. -/
theorem eventEnabled_of_off (hue : UsartCr1.ue s.usart.cr1 = false) (hpe : s.i2c.pe = false)
    (hphase : s.i2c.phase = .idle) (hspe : SpiCr1.spe s.spi.cr1 = false) (he : agentEvent e = true) :
    eventEnabled s e = false := by
  cases e with
  | evUsartClk | evUsartTick => exact hue
  | evI2cStart => simp [eventEnabled, I2c.startEnabled, hpe]
  | evI2cAddr | evI2cBusFree => simp [eventEnabled, hphase]
  | evI2cTxByte => simp [eventEnabled, I2c.txEnabled, hphase]
  | evI2cRxByte => simp [eventEnabled, I2c.rxEnabled, hphase]
  | evI2cStop => simp [eventEnabled, I2c.stopEnabled, hpe]
  | evSpiLoad => simp [eventEnabled, Spi.loadEnabled, Spi.running, hspe]
  | evSpiBit => simp [eventEnabled, Spi.bitEnabled, hspe]
  | evSpiModf => simp [eventEnabled, Spi.running, hspe]
  | _ => cases he

theorem eventEnabled_resetStep (s : State) (he : agentEvent e = true) : eventEnabled (resetStep s) e = false :=
  eventEnabled_of_off (usart_off_after_reset s) rfl rfl (spi_off_after_reset s) he

theorem Nvic.enabled_reset (n : Nat) : Nvic.reset.enabled n = false := by
  by_cases hn : n / 32 < 16 <;> simp [Nvic.enabled, Nvic.reset, hn]

/-- Settles O10: every sub-block takes its reset value, but for what stands outside the block; a sub-block that is
off enables no step. -/
theorem resetStepRestoresEverything : Obligations.ResetStepRestoresEverything := by
  unfold Obligations.ResetStepRestoresEverything
  refine fun s turns h => ⟨resetStep { s with turns := turns }, step_reset h, rfl, rfl, rfl, fun r => ?_, fun n => ?_,
    Nvic.enabled_reset, rfl, rfl, rfl, rfl, rfl, rfl, fun e he => ?_⟩
  · exact Vector.getElem_replicate r.isLt
  · exact Vector.getElem_replicate n.isLt
  · have hoff := eventEnabled_resetStep { s with turns := turns } he
    exact ⟨hoff, disabledStepsChangeNothing e _ hoff⟩

/-! ### The state after reset (R47) -/

theorem nvicInv_of_reset : NvicInv State.reset.params State.reset.nvic := nvicInv_reset _ Nvic.reset

/-- Settles O13: after reset every sub-block is at rest. -/
theorem invariantAtReset : Obligations.InvariantAtReset := by
  unfold Obligations.InvariantAtReset
  exact ⟨usartInv_reset 0 0 none, i2cInv_reset 0, spiInv_reset 0 none, nvicInv_of_reset⟩

theorem Nvic.iser_reset (r : BitVec 4) : State.reset.respond (State.reset.nvic.iser[r.toNat]?.getD 0#32) =
    { State.reset with rdata := 0#32 } := by
  have hr : r.toNat < 16 := r.isLt
  simp [State.reset, Nvic.reset, State.respond, hr]

theorem Nvic.priority_reset (n : BitVec 9) : State.reset.respond ((State.reset.nvic.priority n.toNat).setWidth 32) =
    { State.reset with rdata := 0#32 } := by
  have hn : n.toNat < 512 := n.isLt
  simp [State.reset, Nvic.reset, Nvic.priority, State.respond, hn]

/-- Settles O12: each read is evaluated at the reset state. -/
theorem resetStateReads : Obligations.ResetStateReads := by
  unfold Obligations.ResetStateReads
  refine ⟨?_, fun r hr => ?_, fun n hn => ?_, rfl, rfl⟩
  · simp only [List.forall_mem_cons]
    refine ⟨rfl, rfl, rfl, rfl, rfl, rfl, rfl, rfl, rfl, rfl, rfl, rfl, rfl, rfl, rfl, rfl, rfl, rfl, nofun⟩
  · exact (exec_rdNvicIser (s := State.reset) hr).trans (by rw [Nvic.iser_reset r])
  · exact (exec_rdNvicIpr (s := State.reset) hn).trans (by rw [Nvic.priority_reset n])

end Sys2Proof.Machine
end

section
/-! PROOF. What clears a flag, what changes a guarded field and what records a fault (60_exceptions.md section 1,
20_memory.md section 3, 70_reset_and_hazards.md section 4). -/

namespace Sys2Proof.Machine

/-! ### The flags of the USART (R182, R185) -/

namespace Usart

variable {u u' f pre : Usart} {p : Bool} {l : Layout} {i : Instr}

/-- No flag that an event sets has been cleared. -/
structure FlagsKept (a b : UsartFlags) : Prop where
  fe : a.fe = true → b.fe = true
  ore : a.ore = true → b.ore = true
  idle : a.idle = true → b.idle = true
  rtof : a.rtof = true → b.rtof = true

theorem rxFrame_fe_ore (u : Usart) (p : Bool) :
    (u.isr.fe = true → (u.rxFrame p).isr.fe = true) ∧ (u.isr.ore = true → (u.rxFrame p).isr.ore = true) := by
  by_cases hcomp : u.FrameCompleted
  · rw [rxFrame_stop_completed hcomp.1 hcomp.2]
    cases hfull : u.isr.rxne
    · rw [deliver_character hfull]
      exact ⟨fun hfe => by simp [rearm, hfe], id⟩
    · rw [deliver_overrun hfull]
      exact ⟨id, fun _ => rfl⟩
  · obtain ⟨-, -, hfe, hore⟩ := rxFrame_sameDelivery hcomp p
    exact ⟨hfe.trans, hore.trans⟩

theorem idleDetect_idle (h : f.isr.idle = true) : (idleDetect pre p f).isr.idle = true := by
  unfold idleDetect
  repeat' split
  all_goals simp [h]

theorem timeoutDetect_rtof (h : f.isr.rtof = true) : (timeoutDetect pre f).isr.rtof = true := by
  unfold timeoutDetect
  repeat' split
  all_goals simp [h]

theorem tick_flagsKept (u : Usart) (p : Bool) : FlagsKept u.isr (u.tick p).isr := by
  cases hre : UsartCr1.re u.cr1
  · obtain ⟨-, ⟨-, -, hfe, hore⟩, hidle, hrtof⟩ := tick_receiver_off hre p
    exact ⟨hfe.trans, hore.trans, hidle.trans, hrtof.trans⟩
  · obtain ⟨-, -, -, -, -, -, -, hfe, hore⟩ := tick_frame hre p
    obtain ⟨-, -, hidle⟩ := tick_idleDetect hre p
    obtain ⟨-, -, -, hrtof⟩ := tick_timeoutDetect hre p
    obtain ⟨hfe', hore'⟩ := rxFrame_fe_ore u p
    obtain ⟨hidle', hrtof'⟩ := rxFrame_detectorFlags u p
    exact ⟨fun h => hfe.trans (hfe' h), fun h => hore.trans (hore' h),
      fun h => hidle.trans (idleDetect_idle (hidle'.trans h)),
      fun h => hrtof.trans (timeoutDetect_rtof (hrtof'.trans h))⟩

theorem clock_flagsKept (u : Usart) : FlagsKept u.isr u.clock.isr := by
  rcases Nat.lt_or_ge (u.brgAcc + 16) u.div with hlt | hle
  · rw [clock_counts hlt]
    exact ⟨id, id, id, id⟩
  · rw [clock_ticks hle]
    exact tick_flagsKept u.overflow _

/-- A write of CR1 that leaves UE = 1 clears no flag. -/
theorem writeCr1_flagsKept {v : Word} (h : u.writeCr1 v = .next u') (hue : UsartCr1.ue v = true) :
    FlagsKept u.isr u'.isr := by
  obtain ⟨-, -, -, rfl⟩ := writeCr1_accepted h
  rw [storeCr1_enabled hue, checkStop_frame]
  exact ⟨id, id, id, id⟩

end Usart

open Usart in
/-- Only a write of ICR clears a flag, and a write of CR1 that leaves UE = 0. -/
theorem UsartMove.flagsKept {l : Layout} {i : Instr} {u u' : Usart} (h : UsartMove l i u u') :
    FlagsKept u.isr u'.isr ∨ (∃ v, i = .wrUsartIcr v ∧ u'.isr = u.isr.clear (fromBus l .usartIcr v)) ∨
      ∃ v, i = .wrUsartCr1 v ∧ UsartCr1.ue (fromBus l .usartCr1 v) = false := by
  have same {a : UsartFlags} : FlagsKept a a := ⟨id, id, id, id⟩
  cases h with
  | same h => exact .inl (h ▸ same)
  | @writeCr1 _ _ raw hwrite =>
    cases hue : UsartCr1.ue (fromBus l .usartCr1 raw)
    · exact .inr (.inr ⟨raw, rfl, hue⟩)
    · exact .inl (writeCr1_flagsKept hwrite hue)
  | writeCr2 hwrite =>
    obtain ⟨-, -, rfl⟩ := (writeCr2_next _ _ _).1 hwrite
    exact .inl same
  | writeBrr hwrite =>
    obtain ⟨-, rfl⟩ := (writeBrr_next _ _ _).1 hwrite
    exact .inl same
  | writeRtor hwrite =>
    obtain rfl := (writeRtor_next _ _ _).1 hwrite
    exact .inl same
  | @writeIcr _ _ raw hwrite =>
    obtain rfl := (writeIcr_next _ _ _).1 hwrite
    exact .inr (.inl ⟨raw, rfl, rfl⟩)
  | writeTdr hwrite =>
    obtain ⟨-, rfl⟩ := (writeTdr_next _ _ _).1 hwrite
    exact .inl ⟨id, id, id, id⟩
  | takeRdr h => exact .inl (h ▸ ⟨id, id, id, id⟩)
  | clock _ h => exact .inl (h ▸ clock_flagsKept _)
  | tick _ h => exact .inl (h ▸ tick_flagsKept _ _)

/-! ### The flags of the I2C (R228, R232) -/

namespace I2c

variable {i i' : I2c} {l : Layout}

/-- No flag that an event sets has been cleared. -/
structure FlagsKept (a b : I2cFlags) : Prop where
  nackf : a.nackf = true → b.nackf = true
  stopf : a.stopf = true → b.stopf = true
  arlo : a.arlo = true → b.arlo = true

theorem FlagsKept.refl (a : I2cFlags) : FlagsKept a a := ⟨id, id, id⟩

theorem sAddr_flagsKept (i : I2c) (ack lost : Bool) : FlagsKept i.isr (i.sAddr ack lost).isr := by
  cases lost
  case true => exact ⟨id, id, fun _ => rfl⟩
  cases ack
  case false => exact ⟨fun _ => rfl, fun _ => rfl, id⟩
  rw [sAddr_ack, afterAddr, settle_isr]
  split_ifs <;> exact ⟨id, id, id⟩

theorem sTxByte_flagsKept (i : I2c) (ack lost : Bool) : FlagsKept i.isr (i.sTxByte ack lost).isr := by
  cases lost
  case true => exact ⟨id, id, fun _ => rfl⟩
  cases ack
  case false => exact ⟨fun _ => rfl, fun _ => rfl, id⟩
  simp only [sTxByte, Bool.not_true, Bool.false_eq_true, if_false, settle_isr]
  split_ifs <;> exact ⟨id, id, id⟩

theorem sRxByte_flagsKept (i : I2c) (data : Byte) : FlagsKept i.isr (i.sRxByte data).isr := by
  rw [sRxByte, settle_isr]
  split_ifs <;> exact ⟨id, id, id⟩

end I2c

open I2c in
/-- Only a write of ICR clears a flag, and a write of CR1 with PE = 0. -/
theorem I2cMove.flagsKept {l : Layout} {i : Instr} {c c' : I2c} (h : I2cMove l i c c') :
    FlagsKept c.isr c'.isr ∨ (∃ v, i = .wrI2cIcr v ∧ c'.isr = c.isr.clear (fromBus l .i2cIcr v)) ∨
      ∃ v, i = .wrI2cCr1 v ∧ (fromBus l .i2cCr1 v).getLsbD 0 = false := by
  cases h with
  | same h => exact .inl (h ▸ .refl _)
  | @writeCr1 _ _ raw hwrite =>
    rw [(writeCr1_next _ _ _).1 hwrite]
    cases hpe : (fromBus l .i2cCr1 raw).getLsbD 0
    · exact .inr (.inr ⟨raw, rfl, hpe⟩)
    · exact .inl (.refl _)
  | writeCr2 hwrite =>
    obtain ⟨-, -, rfl⟩ := (writeCr2_next _ _ _).1 hwrite
    exact .inl ⟨id, id, id⟩
  | writeTimingr hwrite =>
    obtain ⟨-, rfl⟩ := (writeTimingr_next _ _ _).1 hwrite
    exact .inl (.refl _)
  | @writeIcr _ _ raw hwrite =>
    obtain rfl := (writeIcr_next _ _ _).1 hwrite
    exact .inr (.inl ⟨raw, rfl, rfl⟩)
  | writeTxdr hwrite =>
    obtain ⟨-, rfl⟩ := (writeTxdr_next _ _ _).1 hwrite
    rw [ite_settle_eq]
    exact .inl ⟨id, id, id⟩
  | takeRxdr h =>
    rw [h, takeRxdr_eq]
    exact .inl ⟨id, id, id⟩
  | start _ hstep =>
    obtain ⟨-, -, rfl⟩ := (sStart_next _ _).1 hstep
    rw [settle_isr]
    exact .inl ⟨id, id, id⟩
  | addr _ h => exact .inl (h ▸ sAddr_flagsKept _ _ _)
  | txByte _ h => exact .inl (h ▸ sTxByte_flagsKept _ _ _)
  | rxByte _ h => exact .inl (h ▸ sRxByte_flagsKept _ _)
  | stop _ h => exact .inl (h ▸ ⟨id, fun _ => rfl, id⟩)
  | busFree _ h => exact .inl (h ▸ ⟨id, id, id⟩)

/-! ### OVR and MODF of the SPI (R268) -/

namespace Spi

/-- Neither flag of a clearing sequence has been cleared. -/
structure FlagsKept (p q : Spi) : Prop where
  ovr : p.ovr = true → q.ovr = true
  modf : p.modf = true → q.modf = true

theorem sBit_flagsKept (p : Spi) (miso : Bool) : FlagsKept p (p.sBit miso) := by
  rcases Nat.lt_or_ge (p.sh.cnt + 1) p.frameBits with h | h
  · rw [sBit_next h]
    exact ⟨id, id⟩
  · rw [sBit_last h]
    refine ⟨fun hovr => ?_, id⟩
    have hovr' : (p.exchange miso).ovr = true := hovr
    rw [frameDone_ovr, hovr', ite_self]

theorem sModf_flagsKept (p : Spi) (nssIn : Bool) : FlagsKept p (p.sModf nssIn) := by
  rw [sModf]
  split
  · exact ⟨id, id⟩
  · exact ⟨id, fun _ => rfl⟩

end Spi

open Spi in
/-- OVR is cleared by the read of SR that ends its sequence, and MODF by the write of CR1 that ends its own. -/
theorem SpiMove.flagsKept {l : Layout} {i : Instr} {p p' : Spi} (h : SpiMove l i p p') :
    FlagsKept p p' ∨ (i = .rdSpiSr ∧ p' = p.afterSrRead) ∨
      ∃ v, i = .wrSpiCr1 v ∧ p'.ovr = p.ovr ∧ p'.modf = (p.modf && !p.modfSeq) := by
  cases h with
  | same h => exact .inl (h ▸ ⟨id, id⟩)
  | @writeCr1 _ _ raw hwrite =>
    obtain ⟨-, hmodf, -⟩ := writeCr1_sequences hwrite
    obtain ⟨-, -, -, rfl⟩ := (writeCr1_next _ _ _).1 hwrite
    obtain ⟨-, -, hovr, -⟩ := p.checkDisable_keeps (fromBus l .spiCr1 raw)
    exact .inr (.inr ⟨raw, rfl, hovr, hmodf⟩)
  | writeCr2 hwrite =>
    obtain ⟨-, -, rfl⟩ := (writeCr2_next _ _ _).1 hwrite
    exact .inl ⟨id, id⟩
  | readSr h => exact .inr (.inl ⟨rfl, h⟩)
  | pop8 _ h | pop16 h | load _ h => exact .inl (h ▸ ⟨id, id⟩)
  | push8 hwrite =>
    obtain ⟨-, -, rfl⟩ := (push8_next _ _ _).1 hwrite
    exact .inl ⟨id, id⟩
  | push16 hwrite =>
    obtain ⟨-, rfl⟩ := (push16_next _ _ _).1 hwrite
    exact .inl ⟨id, id⟩
  | bit _ h => exact .inl (h ▸ sBit_flagsKept _ _)
  | modf _ h => exact .inl (h ▸ sModf_flagsKept _ _)

/-- A flag that a 1 to its bit clears was cleared by one. -/
theorem bit_of_cleared {flag bit : Bool} (hset : flag = true) (hclear : (flag && !bit) = false) : bit = true := by
  simpa [hset] using hclear

/-- Settles O21: every move but the ones named keeps the flags. -/
theorem flagsAreSticky : Obligations.FlagsAreSticky := by
  unfold Obligations.FlagsAreSticky
  intro i s t h
  have noClear {a b : Bool} (hkept : a = true → b = true) {P : Prop} (ha : a = true) (hb : b = false) : P :=
    nomatch (hkept ha).symm.trans hb
  refine ⟨?_, ?_, ?_, ?_⟩
  · obtain ⟨hfe, hore, hidle, hrtof⟩ | ⟨v, rfl, hisr⟩ | ⟨v, rfl, hue⟩ := (exec_usartMove h).flagsKept
    · simp only [List.forall_mem_cons]
      exact ⟨noClear hfe, noClear hore, noClear hidle, noClear hrtof, nofun⟩
    · rw [hisr]
      simp only [List.forall_mem_cons]
      refine ⟨?_, ?_, ?_, ?_, nofun⟩ <;>
        exact fun hset hclear => ⟨v, .inl ⟨rfl, bit_of_cleared hset hclear⟩⟩
    · exact fun _ _ _ _ => ⟨v, .inr ⟨rfl, hue⟩⟩
  · obtain ⟨hnackf, hstopf, harlo⟩ | ⟨v, rfl, hisr⟩ | ⟨v, rfl, hpe⟩ := (exec_i2cMove h).flagsKept
    · simp only [List.forall_mem_cons]
      exact ⟨noClear hnackf, noClear hstopf, noClear harlo, nofun⟩
    · rw [hisr]
      simp only [List.forall_mem_cons]
      refine ⟨?_, ?_, ?_, nofun⟩ <;>
        exact fun hset hclear => ⟨v, .inl ⟨rfl, bit_of_cleared hset hclear⟩⟩
    · exact fun _ _ _ _ => ⟨v, .inr ⟨rfl, hpe⟩⟩
  · intro hset hclear
    obtain ⟨hovr, -⟩ | ⟨rfl, hp⟩ | ⟨v, rfl, hovr, -⟩ := (exec_spiMove h).flagsKept
    · exact noClear hovr hset hclear
    · rw [hp] at hclear
      exact ⟨rfl, bit_of_cleared hset hclear⟩
    · exact noClear hovr.trans hset hclear
  · intro hset hclear
    obtain ⟨-, hmodf⟩ | ⟨rfl, hp⟩ | ⟨v, rfl, -, hmodf⟩ := (exec_spiMove h).flagsKept
    · exact noClear hmodf hset hclear
    · rw [hp] at hclear
      exact nomatch hset.symm.trans hclear
    · exact ⟨⟨v, rfl⟩, bit_of_cleared hset (hmodf.symm.trans hclear)⟩

/-! ### The guarded fields (R82, R174, R203, R259) -/

/-- What R174 guards: the divisor, the word length, the oversampling, the stop bits and the timeout's enable. -/
structure Usart.GuardedSame (u u' : Usart) : Prop where
  brr : u'.brr = u.brr
  m0 : UsartCr1.m0 u'.cr1 = UsartCr1.m0 u.cr1
  m1 : UsartCr1.m1 u'.cr1 = UsartCr1.m1 u.cr1
  over8 : UsartCr1.over8 u'.cr1 = UsartCr1.over8 u.cr1
  stop : UsartCr2.stop u'.cr2 = UsartCr2.stop u.cr2
  rtoen : UsartCr2.rtoen u'.cr2 = UsartCr2.rtoen u.cr2

open Usart in
theorem UsartMove.guardedSame {l : Layout} {i : Instr} {u u' : Usart} (h : UsartMove l i u u')
    (hue : UsartCr1.ue u.cr1 = true) (hue' : UsartCr1.ue u'.cr1 = true) : GuardedSame u u' := by
  have same : GuardedSame u u := ⟨rfl, rfl, rfl, rfl, rfl, rfl⟩
  have tick (w : Usart) (p : Bool) : GuardedSame w (w.tick p) := by
    obtain ⟨hcr1, hcr2, hbrr, -⟩ := w.tick_config p
    exact ⟨hbrr, hcr1 ▸ rfl, hcr1 ▸ rfl, hcr1 ▸ rfl, hcr2 ▸ rfl, hcr2 ▸ rfl⟩
  cases h with
  | same h => exact h ▸ same
  | @writeCr1 _ _ raw hwrite =>
    obtain ⟨-, hguard, -, rfl⟩ := writeCr1_accepted hwrite
    cases hnew : UsartCr1.ue (fromBus l .usartCr1 raw)
    · rw [storeCr1_disabled hnew] at hue'
      exact nomatch hnew.symm.trans hue'
    · obtain ⟨hm0, hm1, hover8⟩ := cr1Guarded_eq_false_iff.1 hguard hue hnew
      rw [storeCr1_enabled hnew, checkStop_frame]
      exact ⟨rfl, hm0, hm1, hover8, rfl, rfl⟩
  | writeCr2 hwrite =>
    obtain ⟨-, hguard, rfl⟩ := (writeCr2_next _ _ _).1 hwrite
    exact ⟨rfl, rfl, rfl, rfl, (hguard hue).1, (hguard hue).2⟩
  | writeBrr hwrite =>
    obtain ⟨hguard, rfl⟩ := (writeBrr_next _ _ _).1 hwrite
    exact ⟨hguard hue, rfl, rfl, rfl, rfl, rfl⟩
  | writeRtor hwrite =>
    obtain rfl := (writeRtor_next _ _ _).1 hwrite
    exact ⟨rfl, rfl, rfl, rfl, rfl, rfl⟩
  | writeIcr hwrite =>
    obtain rfl := (writeIcr_next _ _ _).1 hwrite
    exact ⟨rfl, rfl, rfl, rfl, rfl, rfl⟩
  | writeTdr hwrite =>
    obtain ⟨-, rfl⟩ := (writeTdr_next _ _ _).1 hwrite
    exact ⟨rfl, rfl, rfl, rfl, rfl, rfl⟩
  | takeRdr h => exact h ▸ ⟨rfl, rfl, rfl, rfl, rfl, rfl⟩
  | clock _ h =>
    rcases Nat.lt_or_ge (u.brgAcc + 16) u.div with hlt | hle
    · rw [h, clock_counts hlt]
      exact ⟨rfl, rfl, rfl, rfl, rfl, rfl⟩
    · obtain ⟨hbrr, hm0, hm1, hover8, hstop, hrtoen⟩ := tick u.overflow (Config.rxDraw u.draws)
      rw [h, clock_ticks hle]
      exact ⟨hbrr, hm0, hm1, hover8, hstop, hrtoen⟩
  | tick _ h => exact h ▸ tick u _

open I2c in
theorem I2cMove.timingr_eq {l : Layout} {i : Instr} {c c' : I2c} (h : I2cMove l i c c') (hpe : c.pe = true) :
    c'.timingr = c.timingr := by
  cases h with
  | same h => rw [h]
  | writeCr1 hwrite =>
    rw [(writeCr1_next _ _ _).1 hwrite]
    split <;> rfl
  | writeCr2 hwrite =>
    obtain ⟨-, -, rfl⟩ := (writeCr2_next _ _ _).1 hwrite
    rfl
  | writeTimingr hwrite =>
    obtain ⟨hguard, rfl⟩ := (writeTimingr_next _ _ _).1 hwrite
    exact hguard hpe
  | writeIcr hwrite =>
    obtain rfl := (writeIcr_next _ _ _).1 hwrite
    rfl
  | writeTxdr hwrite =>
    obtain ⟨-, rfl⟩ := (writeTxdr_next _ _ _).1 hwrite
    rw [ite_settle_eq]
  | takeRxdr h => rw [h, takeRxdr_eq]
  | start _ hstep =>
    obtain ⟨-, -, rfl⟩ := (sStart_next _ _).1 hstep
    rw [settle_timingr]
  | @addr _ _ ack lost _ h =>
    rw [h]
    cases lost
    case true => rfl
    cases ack
    case false => rfl
    rw [sAddr_ack, afterAddr, settle_timingr]
    split_ifs <;> rfl
  | @txByte _ _ ack lost _ h =>
    rw [h]
    cases lost
    case true => rfl
    cases ack
    case false => rfl
    simp only [sTxByte, Bool.not_true, Bool.false_eq_true, if_false, settle_timingr]
    split_ifs <;> rfl
  | rxByte _ h =>
    rw [h, sRxByte, settle_timingr]
    split_ifs <;> rfl
  | stop _ h | busFree _ h => rw [h]; rfl

/-- The guarded fields of CR1 are its bits but SPE (R259). -/
theorem SpiCr1.config_eq_iff {v w : Word} : config v = config w ↔ ∀ j, j ≠ 6 → v.getLsbD j = w.getLsbD j := by
  have hmask (x : Word) (j : Nat) : (config x).getLsbD j = (x.getLsbD j && decide (j ≠ 6)) :=
    getLsbD_and_not_bitWord x 6 j
  constructor
  · intro h j hj
    have hbit := congrArg (fun x : Word => x.getLsbD j) h
    simpa only [hmask, hj, ne_eq, not_false_iff, decide_true, Bool.and_true] using hbit
  · intro h
    refine BitVec.eq_of_getLsbD_eq fun j _ => ?_
    rw [hmask, hmask]
    rcases eq_or_ne j 6 with rfl | hne
    · rw [decide_eq_false (by decide), Bool.and_false, Bool.and_false]
    · rw [h j hne]

/-- CR1 with every field but SPE as it was, and SPE too, is as it was. -/
theorem SpiCr1.eq_of_config_eq {v w : Word} (hconfig : config v = config w) (hspe : spe v = spe w) : v = w := by
  refine BitVec.eq_of_getLsbD_eq fun j _ => ?_
  rcases eq_or_ne j 6 with rfl | hne
  · exact hspe
  · exact config_eq_iff.1 hconfig j hne

open Spi in
theorem SpiMove.guardedSame {l : Layout} {i : Instr} {p p' : Spi} (h : SpiMove l i p p')
    (hspe : SpiCr1.spe p.cr1 = true) (hspe' : SpiCr1.spe p'.cr1 = true) :
    p'.cr1 = p.cr1 ∧ SpiCr2.ds p'.cr2 = SpiCr2.ds p.cr2 ∧ SpiCr2.frxth p'.cr2 = SpiCr2.frxth p.cr2 := by
  cases h with
  | same h => rw [h]; exact ⟨rfl, rfl, rfl⟩
  | @writeCr1 _ _ raw hwrite =>
    obtain ⟨-, -, hguard, rfl⟩ := (writeCr1_next _ _ _).1 hwrite
    obtain ⟨hcr2, -⟩ := p.checkDisable_keeps (fromBus l .spiCr1 raw)
    have hnew : SpiCr1.spe (fromBus l .spiCr1 raw) = true := hspe'
    exact ⟨SpiCr1.eq_of_config_eq (hguard hspe hnew) (hnew.trans hspe.symm), congrArg SpiCr2.ds hcr2,
      congrArg SpiCr2.frxth hcr2⟩
  | writeCr2 hwrite =>
    obtain ⟨hguard, -, rfl⟩ := (writeCr2_next _ _ _).1 hwrite
    obtain ⟨hds, hfrxth⟩ := stored_fields (fromBus l .spiCr2 _)
    exact ⟨rfl, hds.trans (hguard hspe).1, hfrxth.trans (hguard hspe).2⟩
  | readSr h | pop8 _ h | pop16 h | load _ h => rw [h]; exact ⟨rfl, rfl, rfl⟩
  | push8 hwrite =>
    obtain ⟨-, -, rfl⟩ := (push8_next _ _ _).1 hwrite
    exact ⟨rfl, rfl, rfl⟩
  | push16 hwrite =>
    obtain ⟨-, rfl⟩ := (push16_next _ _ _).1 hwrite
    exact ⟨rfl, rfl, rfl⟩
  | bit _ h =>
    rw [h, sBit_frame]
    exact ⟨rfl, rfl, rfl⟩
  | @modf _ _ nssIn _ h =>
    rw [h, sModf] at hspe'
    rw [h, sModf]
    by_cases hnss : p.nss nssIn = true
    · rw [if_pos hnss]
      exact ⟨rfl, rfl, rfl⟩
    · rw [if_neg hnss] at hspe'
      simp [SpiCr1.spe, SpiCr1.speBit, SpiCr1.mstrBit] at hspe'

/-- Settles O23: every move that finds and leaves the sub-block enabled keeps its guarded fields; the writes of those
fields are checked. -/
theorem guardedFieldsHeld : Obligations.GuardedFieldsHeld := by
  unfold Obligations.GuardedFieldsHeld
  intro i s t h
  refine ⟨fun hue hue' => ?_, fun hpe _ => (exec_i2cMove h).timingr_eq hpe,
    fun hspe hspe' => (exec_spiMove h).guardedSame hspe hspe'⟩
  obtain ⟨hbrr, hm0, hm1, hover8, hstop, hrtoen⟩ := (exec_usartMove h).guardedSame hue hue'
  exact ⟨hbrr, hm0, hm1, hover8, hstop, hrtoen⟩

/-! ### The faults (R9, R170, R270) -/

open Usart in
/-- A fault is recorded by a write of CR1 that stops the transmitter inside a frame, and nothing clears it. -/
theorem UsartMove.fault {l : Layout} {i : Instr} {u u' : Usart} (h : UsartMove l i u u') : u'.fault = u.fault ∨
    ∃ raw, i = .wrUsartCr1 raw ∧ stopsInFrame u (fromBus l .usartCr1 raw) = true ∧
      u'.fault = some .txStoppedInFrame := by
  cases h with
  | same h => exact .inl (by rw [h])
  | @writeCr1 _ _ raw hwrite =>
    obtain ⟨-, -, -, rfl⟩ := writeCr1_accepted hwrite
    have hstored (w : Usart) (v : Word) : (w.storeCr1 v).fault = w.fault := by
      cases hue : UsartCr1.ue v
      · rw [storeCr1_disabled hue]
      · rw [storeCr1_enabled hue]
    rw [hstored]
    cases hstops : stopsInFrame u (fromBus l .usartCr1 raw)
    · exact .inl (by rw [checkStop_quiet hstops])
    · exact .inr ⟨raw, rfl, hstops, by rw [checkStop_stops hstops]; rfl⟩
  | writeCr2 hwrite =>
    obtain ⟨-, -, rfl⟩ := (writeCr2_next _ _ _).1 hwrite
    exact .inl rfl
  | writeBrr hwrite =>
    obtain ⟨-, rfl⟩ := (writeBrr_next _ _ _).1 hwrite
    exact .inl rfl
  | writeRtor hwrite =>
    obtain rfl := (writeRtor_next _ _ _).1 hwrite
    exact .inl rfl
  | writeIcr hwrite =>
    obtain rfl := (writeIcr_next _ _ _).1 hwrite
    exact .inl rfl
  | writeTdr hwrite =>
    obtain ⟨-, rfl⟩ := (writeTdr_next _ _ _).1 hwrite
    exact .inl rfl
  | takeRdr h => exact .inl (by rw [h]; rfl)
  | clock _ h =>
    rcases Nat.lt_or_ge (u.brgAcc + 16) u.div with hlt | hle
    · exact .inl (by rw [h, clock_counts hlt])
    · obtain ⟨-, -, -, -, -, -, -, hfault, -⟩ := u.overflow.tick_config (Config.rxDraw u.draws)
      exact .inl (by rw [h, clock_ticks hle, hfault]; rfl)
  | tick _ h =>
    obtain ⟨-, -, -, -, -, -, -, hfault, -⟩ := tick_config u _
    exact .inl (h ▸ hfault)

open Spi in
/-- A fault is recorded by a write of CR1 that disables the SPI with a frame or bytes under way, and nothing clears
it. -/
theorem SpiMove.fault {l : Layout} {i : Instr} {p p' : Spi} (h : SpiMove l i p p') : p'.fault = p.fault ∨
    ∃ raw, i = .wrSpiCr1 raw ∧ (SpiCr1.spe p.cr1 = true ∧ SpiCr1.spe (fromBus l .spiCr1 raw) = false ∧
      p.underWay = true) ∧ p'.fault = some .disabledWhileBusy := by
  cases h with
  | same h => exact .inl (by rw [h])
  | @writeCr1 _ _ raw hwrite =>
    obtain ⟨-, -, -, rfl⟩ := (writeCr1_next _ _ _).1 hwrite
    split
    · next hbusy =>
      simp only [Bool.and_eq_true, Bool.not_eq_true', and_assoc] at hbusy
      exact .inr ⟨raw, rfl, hbusy, rfl⟩
    · exact .inl rfl
  | writeCr2 hwrite =>
    obtain ⟨-, -, rfl⟩ := (writeCr2_next _ _ _).1 hwrite
    exact .inl rfl
  | readSr h | pop8 _ h | pop16 h | load _ h => exact .inl (by rw [h]; rfl)
  | push8 hwrite =>
    obtain ⟨-, -, rfl⟩ := (push8_next _ _ _).1 hwrite
    exact .inl rfl
  | push16 hwrite =>
    obtain ⟨-, rfl⟩ := (push16_next _ _ _).1 hwrite
    exact .inl rfl
  | bit _ h => exact .inl (by rw [h, sBit_frame]; rfl)
  | modf _ h =>
    rw [h, sModf]
    split <;> exact .inl rfl

/-- What is decoded from the agents' stream is an event. -/
theorem encode_of_decodeEvent {p : Params} {bytes rest : List Byte} {i : Instr}
    (h : decodeEvent p bytes = .ok (i, rest)) (l : Layout) : ∃ bytes, encode l i = .event bytes := by
  obtain ⟨row, hrow, operand, hoperand, rfl, -⟩ := decodeEvent_ok h
  exact ⟨_, eventRows_encode l row hrow operand hoperand⟩

theorem step_ne_fault (s : State) (f : Fault) : step s ≠ .fault f := by
  rw [step]
  cases fetch s with
  | idle | reset | reject => exact nofun
  | run i t => exact exec_ne_fault i t f

section Faults

variable {s t m : State} {i : Instr}

/-- A new fault of the USART comes from the write of CR1 that stops its transmitter. -/
theorem usart_fault_of_exec (hx : exec i m = .next t) (hold : m.usart.fault = none) (hnew : t.usart.fault ≠ none) :
    t.usart.fault = some .txStoppedInFrame ∧ ∃ raw, i = .wrUsartCr1 raw ∧
      stopsInFrame m.usart (fromBus m.params.layout .usartCr1 raw) = true := by
  obtain hsame | ⟨raw, hi, hstops, hfault⟩ := (exec_usartMove hx).fault
  · exact absurd (hsame.trans hold) hnew
  · exact ⟨hfault, raw, hi, hstops⟩

/-- A new fault of the SPI comes from the write of CR1 that disables it with something under way. -/
theorem spi_fault_of_exec (hx : exec i m = .next t) (hold : m.spi.fault = none) (hnew : t.spi.fault ≠ none) :
    t.spi.fault = some .disabledWhileBusy ∧ ∃ raw, i = .wrSpiCr1 raw ∧ SpiCr1.spe m.spi.cr1 = true ∧
      SpiCr1.spe (fromBus m.params.layout .spiCr1 raw) = false ∧ m.spi.underWay = true := by
  obtain hsame | ⟨raw, hi, hbusy, hfault⟩ := (exec_spiMove hx).fault
  · exact absurd (hsame.trans hold) hnew
  · exact ⟨hfault, raw, hi, hbusy⟩

/-- A fault recorded stays recorded. -/
theorem fault_kept_of_exec (hx : exec i m = .next t) : (m.usart.fault ≠ none → t.usart.fault ≠ none) ∧
    (m.spi.fault ≠ none → t.spi.fault ≠ none) := by
  constructor
  · obtain hsame | ⟨-, -, -, hfault⟩ := (exec_usartMove hx).fault
    · rw [hsame]
      exact id
    · rw [hfault]
      exact fun _ => nofun
  · obtain hsame | ⟨-, -, -, hfault⟩ := (exec_spiMove hx).fault
    · rw [hsame]
      exact id
    · rw [hfault]
      exact fun _ => nofun

theorem underWay_eq_true_iff (p : Spi) : p.underWay = true ↔ p.sh.busy = true ∨ p.txf ≠ [] := by
  simp [Spi.underWay, List.length_pos_iff]

/-- A step that changes a fault is HOST's operation. -/
theorem step_fault_cases (h : step s = .next t) :
    (t.usart.fault = s.usart.fault ∧ t.spi.fault = s.spi.fault) ∨
      ∃ turns i rest, s.turns = .host :: turns ∧ decodeBus s.params s.hostStream = .ok (i, rest) ∧
        exec i { s with turns := turns, hostStream := rest } = .next t := by
  obtain ⟨-, rfl⟩ | ⟨turns, -, rfl⟩ | ⟨turns, hturns, ⟨-, rfl⟩ | ⟨i, rest, hdecode, hx⟩⟩ |
    ⟨turns, -, ⟨-, rfl⟩ | ⟨i, rest, hdecode, hx⟩⟩ := step_next h
  · exact .inl ⟨rfl, rfl⟩
  · exact .inl ⟨rfl, rfl⟩
  · exact .inl ⟨rfl, rfl⟩
  · exact .inr ⟨turns, i, rest, hturns, hdecode, hx⟩
  · exact .inl ⟨rfl, rfl⟩
  · obtain ⟨bytes, hevent⟩ := encode_of_decodeEvent hdecode s.params.layout
    refine .inl ⟨?_, ?_⟩
    · obtain hsame | ⟨raw, rfl, -⟩ := (exec_usartMove hx).fault
      · exact hsame
      · exact nomatch hevent
    · obtain hsame | ⟨raw, rfl, -⟩ := (exec_spiMove hx).fault
      · exact hsame
      · exact nomatch hevent

end Faults

/-- Settles O11: an operation never ends in the outcome fault, and of the steps that end in a next state only the two
writes of CR1 change what is recorded. -/
theorem faultsAreRecorded : Obligations.FaultsAreRecorded := by
  unfold Obligations.FaultsAreRecorded
  refine fun s => ⟨step_ne_fault s, fun t h => ?_⟩
  obtain ⟨husart, hspi⟩ | ⟨turns, i, rest, hturns, hdecode, hx⟩ := step_fault_cases h
  · rw [husart, hspi]
    exact ⟨id, fun hold hnew => absurd hold hnew, id, fun hold hnew => absurd hold hnew⟩
  obtain ⟨husart, hspi⟩ := fault_kept_of_exec hx
  refine ⟨husart, fun hold hnew => ?_, hspi, fun hold hnew => ?_⟩
  · obtain ⟨hfault, raw, rfl, hstops⟩ := usart_fault_of_exec hx hold hnew
    exact ⟨hfault, by rw [hturns]; rfl, raw, rest, hdecode, Usart.stopsInFrame_eq_true_iff.1 hstops⟩
  · obtain ⟨hfault, raw, rfl, hspe, hspe', hbusy⟩ := spi_fault_of_exec hx hold hnew
    exact ⟨hfault, by rw [hturns]; rfl, raw, rest, hdecode, hspe, hspe', (underWay_eq_true_iff _).1 hbusy⟩

end Sys2Proof.Machine
end

section
/-! PROOF. The divisor of the baud-rate generator and its cycles (41_usart.md sections 2 and 3), the write of CR1
(section 6), and the NVIC's event (44_nvic.md). -/

namespace Sys2Proof.Machine

/-! ### The divisor (R151) -/

/-- BRR[15:4] ++ BRR[2:0] ++ 0 as a number. -/
theorem usartDiv_eq (brr : BitVec 16) (over8 : Bool) :
    usartDiv brr over8 = if over8 then 16 * (brr.toNat / 16) + 2 * (brr.toNat % 8) else brr.toNat := by
  cases over8
  · rfl
  · have hbrr := brr.isLt
    simp only [usartDiv, if_true, toNat_append_eq_add, BitVec.extractLsb'_toNat, Nat.shiftRight_eq_div_pow,
      BitVec.toNat_ofNat]
    omega

/-- Settles O25: the divisor as a number, and the fields that say the widths of a frame. -/
theorem usartDivisorAndFrame : Obligations.UsartDivisorAndFrame := by
  unfold Obligations.UsartDivisorAndFrame
  refine ⟨fun u => ⟨fun h => ⟨?_, ?_⟩, fun h => ⟨?_, ?_⟩, fun h1 h0 => ?_, fun h1 h0 => ?_, fun h1 h0 => ?_,
    fun h => ?_, fun h => ?_, rfl⟩, fun f brr => ⟨rfl, rfl⟩, rfl, rfl⟩
  · rw [Usart.div, UsartCr1.over8, h, usartDiv_eq, if_neg Bool.false_ne_true]
  · rw [Usart.nOs, UsartCr1.nOs, UsartCr1.over8, h, if_neg Bool.false_ne_true]
  · rw [Usart.div, UsartCr1.over8, h, usartDiv_eq, if_pos rfl]
  · rw [Usart.nOs, UsartCr1.nOs, UsartCr1.over8, h, if_pos rfl]
  · rw [Usart.nData, UsartCr1.nData, UsartCr1.m1, h1, UsartCr1.m0, h0]
    rfl
  · rw [Usart.nData, UsartCr1.nData, UsartCr1.m1, h1, UsartCr1.m0, h0]
    rfl
  · rw [Usart.nData, UsartCr1.nData, UsartCr1.m1, h1, if_pos rfl]
  · simp [Usart.nStop, UsartCr2.nStop, UsartCr2.stop, h]
  · simp [Usart.nStop, UsartCr2.nStop, UsartCr2.stop, h]

/-! ### Cycles of the baud-rate generator (R152) -/

theorem exec_evUsartClk {s : State} (hue : UsartCr1.ue s.usart.cr1 = true) :
    exec .evUsartClk s = .next (s.setUsart s.usart.clock) := whenEnabled_yes hue _ _

/-- Settles O29: below the divisor the accumulator counts; at it, it is reduced and one tick happens. -/
theorem usartClockStep : Obligations.UsartClockStep := by
  unfold Obligations.UsartClockStep
  refine fun s hue => ⟨fun hlt => ?_, fun hle =>
    ⟨s.setUsart s.usart.clock, Config.rxDraw s.usart.draws, exec_evUsartClk hue, ?_⟩⟩
  · rw [exec_evUsartClk hue, Usart.clock_counts hlt]
    rfl
  · rw [Usart.clock_ticks hle, exec_evUsartTick (by exact hue)]
    rfl

namespace Usart

/-- Cycles of the generator since `v`, counted by what it has accumulated: 16 a cycle, `DIV` a tick. -/
structure Cycled (v : Usart) (cycles : Nat) (u : Usart) : Prop where
  cr1 : u.cr1 = v.cr1
  brr : u.brr = v.brr
  below : u.brgAcc < v.div
  draws : v.draws ≤ u.draws
  count : v.brgAcc + 16 * cycles = u.brgAcc + v.div * (u.draws - v.draws)

theorem Cycled.clock {v u : Usart} {n : Nat} (h : Cycled v n u) (hdiv : 16 ≤ v.div) : Cycled v (n + 1) u.clock := by
  obtain ⟨hcr1, hbrr, hbelow, hdraws, hcount⟩ := h
  have hdiv' : u.div = v.div := by rw [div, div, hcr1, hbrr]
  rcases Nat.lt_or_ge (u.brgAcc + 16) u.div with hlt | hle
  · rw [clock_counts hlt]
    exact ⟨hcr1, hbrr, hdiv' ▸ hlt, hdraws, by dsimp only; omega⟩
  · rw [clock_ticks hle]
    obtain ⟨tcr1, -, tbrr, -, -, tacc, tdraws, -⟩ := u.overflow.tick_config (Config.rxDraw u.draws)
    refine ⟨tcr1.trans hcr1, tbrr.trans hbrr, ?_, ?_, ?_⟩
    · rw [tacc]
      change u.brgAcc + 16 - u.div < v.div
      omega
    · rw [tdraws]
      exact Nat.le_succ_of_le hdraws
    · rw [tacc, tdraws]
      change _ = u.brgAcc + 16 - u.div + v.div * (u.draws + 1 - v.draws)
      rw [Nat.sub_add_comm hdraws, Nat.mul_succ v.div]
      omega

end Usart

theorem runOps_clocks {s : State} {v : Usart} {m : Nat} (hue : UsartCr1.ue v.cr1 = true) (hdiv : 16 ≤ v.div)
    (h : v.Cycled m s.usart) (n : Nat) : ∃ t : State,
      runOps (List.replicate n .evUsartClk) s = .next t ∧ v.Cycled (m + n) t.usart := by
  induction n generalizing s m with
  | zero => exact ⟨s, rfl, h⟩
  | succ n ih =>
    rw [List.replicate_succ, runOps_cons (exec_evUsartClk (h.cr1 ▸ hue)), Nat.add_comm n 1, ← Nat.add_assoc]
    exact ih (h.clock hdiv)

/-- Settles O30: the accumulator gains 16 a cycle and loses `DIV` a tick and is below `DIV` before and after, so
`DIV` cycles make 16 ticks. -/
theorem sixteenTicksPerDivisor : Obligations.SixteenTicksPerDivisor := by
  unfold Obligations.SixteenTicksPerDivisor
  intro s hue hinv
  have hacc := hinv.accBelowDivisor hue
  have hdiv := (hinv.divisorValid hue).1
  have hstart : s.usart.Cycled 0 s.usart := ⟨rfl, rfl, hacc, Nat.le_refl _, by simp⟩
  obtain ⟨t, hrun, hcr1, -, hbelow, hdraws, hcount⟩ := runOps_clocks hue hdiv hstart s.usart.div
  have hticks : t.usart.draws - s.usart.draws = 16 := by
    rw [Nat.zero_add, Nat.mul_comm 16] at hcount
    generalize s.usart.div = d at *
    generalize t.usart.draws - s.usart.draws = k at *
    have hle : k ≤ 16 := Nat.le_of_not_lt fun hlt => by nlinarith
    have hge : 16 ≤ k := Nat.le_of_not_lt fun hlt => by nlinarith
    omega
  refine ⟨t, hrun, by omega, ?_, hcr1⟩
  rw [hticks] at hcount
  omega

/-! ### The write of CR1 (R170) -/

theorem rxAfterCr1_eq (u : Usart) (v : Word) :
    u.rxAfterCr1 v = if u.cr1.getLsbD 2 = true ∧ v.getLsbD 2 = false then .reset else u.rx := by
  simp [Usart.rxAfterCr1, UsartCr1.re]

theorem cr1Guarded_eq_true_iff {old v : Word} : cr1Guarded old v = true ↔
    old.getLsbD 0 = true ∧ v.getLsbD 0 = true ∧ ∃ j ∈ [12, 15, 28], v.getLsbD j ≠ old.getLsbD j := by
  simp only [cr1Guarded, UsartCr1.ue, UsartCr1.m0, UsartCr1.m1, UsartCr1.over8, Bool.and_eq_true, Bool.or_eq_true,
    bne_iff_ne, List.mem_cons, List.not_mem_nil, or_false, exists_eq_or_imp, exists_eq_left, and_assoc, or_assoc,
    or_comm (a := v.getLsbD 28 ≠ old.getLsbD 28)]

theorem badDivisor_eq_true_iff {brr : BitVec 16} {over8 : Bool} : badDivisor brr over8 = true ↔
    usartDiv brr over8 < 16 ∨ over8 = true ∧ brr.getLsbD 3 = true := by
  simp only [badDivisor, Bool.or_eq_true, decide_eq_true_eq, Bool.and_eq_true]

namespace Usart

variable {u : Usart} {v : Word}

theorem writeCr1_reservedValue (h : v.getLsbD 28 = true ∧ v.getLsbD 12 = true) :
    u.writeCr1 v = .refused .reservedValue :=
  refuseIf_bad ((Bool.and_eq_true _ _).mpr h) _ _

theorem writeCr1_guarded (hlength : UsartCr1.reservedLength v = false) (h : cr1Guarded u.cr1 v = true) :
    u.writeCr1 v = .refused .configWhileEnabled := by
  rw [writeCr1, refuseIf_good hlength, refuseIf_bad h]

theorem writeCr1_badDivisor (hlength : UsartCr1.reservedLength v = false) (hold : UsartCr1.ue u.cr1 = false)
    (hue : UsartCr1.ue v = true) (h : badDivisor u.brr (UsartCr1.over8 v) = true) :
    u.writeCr1 v = .refused .badDivisor := by
  have hguard : cr1Guarded u.cr1 v = false := by simp [cr1Guarded, hold]
  rw [writeCr1, refuseIf_good hlength, refuseIf_good hguard, refuseIf_bad (by simp [hold, hue, h])]

end Usart

open Usart in
/-- Settles O28: the checks of R170 in their order; then the write, which is known but for the transmitter that it
stops inside a frame. -/
theorem usartCr1Write : Obligations.UsartCr1Write := by
  unfold Obligations.UsartCr1Write
  refine fun s raw => ⟨fun hbits => busWrite_usart_reserved hbits, fun hbits =>
    ⟨fun hlength => busWrite_usart_refused hbits (writeCr1_reservedValue hlength), fun hlength => ?_⟩⟩
  have hlength : UsartCr1.reservedLength (fromBus s.params.layout .usartCr1 raw) = false :=
    Bool.eq_false_iff.2 fun h => hlength ((Bool.and_eq_true _ _).mp h)
  rw [← usartDiv_eq]
  refine ⟨fun hold hue hguard => ?_, fun hold hue hdiv => ?_, fun hguard hdiv => ?_⟩
  · exact busWrite_usart_refused hbits (writeCr1_guarded hlength (cr1Guarded_eq_true_iff.2 ⟨hold, hue, hguard⟩))
  · exact busWrite_usart_refused hbits (writeCr1_badDivisor hlength hold hue (badDivisor_eq_true_iff.2 hdiv))
  have hguard : cr1Guarded s.usart.cr1 (fromBus s.params.layout .usartCr1 raw) = false := by
    refine Bool.eq_false_iff.2 fun h => ?_
    obtain ⟨hold, hue, j, hj, hne⟩ := cr1Guarded_eq_true_iff.1 h
    exact hne (hguard hold hue j hj)
  have hwrite := busWrite_usart_next hbits ((writeCr1_next s.usart _ _).2 ⟨hlength, hguard, fun hold hue =>
    badDivisor_eq_false_iff.2 ((hdiv hold hue).imp_right fun h h8 => Bool.eq_false_iff.2 fun h3 => h ⟨h8, h3⟩), rfl⟩)
  refine ⟨fun hstops hue => ?_, fun hstops hue => ?_, fun hstops hue => ?_, fun hstops hue => ?_⟩
  · refine hwrite.trans ?_
    rw [if_neg (mt stopsInFrame_eq_true_iff.1 hstops), storeCr1_enabled hue, rxAfterCr1_eq]
    rfl
  · refine hwrite.trans ?_
    rw [if_neg (mt stopsInFrame_eq_true_iff.1 hstops), storeCr1_disabled hue]
    rfl
  · refine ⟨_, hwrite, ?_⟩
    rw [if_pos (stopsInFrame_eq_true_iff.2 hstops), storeCr1_enabled hue, rxAfterCr1_eq]
    rfl
  · refine ⟨_, hwrite, ?_⟩
    rw [if_pos (stopsInFrame_eq_true_iff.2 hstops), storeCr1_disabled hue]
    rfl

/-! ### The NVIC's event (R308) -/

theorem exec_evNvicPend {s : State} {n : BitVec 9} (h : n.toNat < s.params.nLines) (level : Bool) :
    exec (.evNvicPend n level) s = .next (s.setNvic (s.nvic.setPending n.toNat level)) :=
  refuseIf_good (decide_eq_false (Nat.not_le.2 h)) _ _

theorem Nvic.pend_setPending (v : Nvic) (line : Nat) (level : Bool) (k : Fin 512) :
    (v.setPending line level).pend[k] = if k.val = line then level else v.pend[k] := by
  by_cases h : k.val = line
  · subst h
    simp [setPending]
  · simp [setPending, h, Ne.symm h]

/-- Settles O57: the index is checked first; then one input takes the level. -/
theorem nvicPendEvent : Obligations.NvicPendEvent := by
  unfold Obligations.NvicPendEvent
  exact fun s n level => ⟨fun h => ⟨_, exec_evNvicPend h level, s.nvic.pend_setPending n.toNat level⟩,
    fun h => refuseIf_bad (decide_eq_true h) _ _⟩

end Sys2Proof.Machine
end

section
/-! PROOF. The register access primitives as the bus operations they are (40_regaccess.md section 2). -/

namespace Sys2Proof.Machine

/-! ### A program that begins with a read, and one that writes -/

section Run

variable {α : Type} {rd wr : Instr} {before between : List Instr} {later : List (List Instr)} {s s1 s2 s3 t : State}

/-- A read gives its value to the program that goes on with it. -/
theorem run_readWord_andThen (hbefore : runOps before s = .next s1) (hrd : exec rd s1 = .next s2)
    (k : Word → HostProg α) :
    ((readWord rd).andThen k).run (before :: later) s = (k s2.rdata).run later s2 := by
  simp [readWord, HostProg.andThen, HostProg.run, hbefore, hrd]

theorem run_writeWord_next (hbetween : runOps between s2 = .next s3) (hwr : exec wr s3 = .next t) :
    (writeWord wr).run (between :: later) s2 = .next ((), t) := by
  simp [writeWord, HostProg.run, hbetween, hwr]

theorem run_writeWord_refused {r : Refusal} (hbetween : runOps between s2 = .next s3)
    (hwr : exec wr s3 = .refused r) : (writeWord wr).run (between :: later) s2 = .refused r := by
  simp [writeWord, HostProg.run, hbetween, hwr]

end Run

/-! ### An access at an address (R132, R133) -/

section Access

variable {p : Params} {base : Blk → Word} {addr value : Word} {i : Instr} {r : Reject} {sz : Width}

theorem readAt_ok (h : accessAt p base false sz addr 0#32 = .ok i) : readAt p base sz addr = readWord i := by
  rw [readAt, h]

theorem readAt_error (h : accessAt p base false sz addr 0#32 = .error r) :
    readAt p base sz addr = .refuse (refusalOf r) := by rw [readAt, h]

theorem writeAt_ok (h : accessAt p base true sz addr value = .ok i) :
    writeAt p base sz addr value = writeWord i := by rw [writeAt, h]

theorem writeAt_error (h : accessAt p base true sz addr value = .error r) :
    writeAt p base sz addr value = .refuse (refusalOf r) := by rw [writeAt, h]

end Access

/-! ### The primitives (R134 to R138) -/

/-- The three primitives that update a register, each with what it makes of the old value. -/
def updatesOf (port : RegPort) (offset : Nat) (mask value : Word) : List (HostProg Unit × (Word → Word)) :=
  [(setBits port mask, fun old => old ||| mask), (clearBits port mask, fun old => old &&& ~~~mask)] ++
  if offset + maskWidth mask ≤ 32 then [(writeField port offset mask value, fun old =>
    (old &&& ~~~(mask <<< offset)) ||| ((value &&& mask) <<< offset))] else []

section Primitives

variable {port : RegPort} {offset : Nat} {mask value want : Word} {q : HostProg Unit × (Word → Word)}

/-- Each of them is a read and the write-back of what it makes of the value. -/
theorem eq_readModifyWrite_of_mem (hq : q ∈ updatesOf port offset mask value) : q.1 = readModifyWrite port q.2 := by
  rcases List.mem_append.1 hq with hbits | hfield
  · rcases List.mem_pair.1 hbits with rfl | rfl
    · rfl
    · rfl
  · by_cases hfits : offset + maskWidth mask ≤ 32
    · rw [if_pos hfits, List.mem_singleton] at hfield
      subst hfield
      exact if_neg (Nat.not_lt.2 hfits)
    · rw [if_neg hfits] at hfield
      exact absurd hfield List.not_mem_nil

theorem writeField_refused (h : ¬offset + maskWidth mask ≤ 32) :
    writeField port offset mask value = .refuse .badCommand := if_pos (Nat.lt_of_not_le h)

/-- A POLL is refused where its read is. -/
theorem poll_refused {r : Refusal} (mask want : Word) (bound : Nat) :
    poll (.refuse r) mask want bound = .refuse r := by
  unfold poll
  cases bound - 1 <;> rfl

section Poll

variable {rd : Instr} {before : List Instr} {s s1 s2 : State} {later : List (List Instr)}
variable (hbefore : runOps before s = .next s1) (hrd : exec rd s1 = .next s2)
include hbefore hrd

theorem run_poll_found (h : s2.rdata &&& mask = want) (bound : Nat) :
    (poll (readWord rd) mask want bound).run (before :: later) s = .next (true, s2) := by
  unfold poll
  cases bound - 1 with
  | zero => rw [pollLoop, run_readWord_andThen hbefore hrd, h, beq_self_eq_true, HostProg.run]
  | succ more => rw [pollLoop, run_readWord_andThen hbefore hrd, if_pos (beq_iff_eq.2 h), HostProg.run]

theorem run_poll_last {bound : Nat} (h : s2.rdata &&& mask ≠ want) (hbound : bound ≤ 1) :
    (poll (readWord rd) mask want bound).run (before :: later) s = .next (false, s2) := by
  rw [poll, Nat.sub_eq_zero_of_le hbound, pollLoop, run_readWord_andThen hbefore hrd, beq_false_of_ne h, HostProg.run]

theorem run_poll_again {bound : Nat} (h : s2.rdata &&& mask ≠ want) (hbound : 2 ≤ bound) :
    (poll (readWord rd) mask want bound).run (before :: later) s =
      (poll (readWord rd) mask want (bound - 1)).run later s2 := by
  obtain ⟨more, rfl⟩ := Nat.exists_eq_add_of_le' hbound
  exact (run_readWord_andThen hbefore hrd _).trans (by rw [if_neg (by simpa using h)]; rfl)

end Poll

end Primitives

/-- Settles O60: where the address is refused for reading nothing is done; where it is not, the read's value goes
into the write-back, the field or the comparison. -/
theorem accessPrimitives : Obligations.AccessPrimitives := by
  unfold Obligations.AccessPrimitives
  intro p base addr mask value offset before between s s1 hbefore
  refine ⟨fun hfits => by rw [writeField_refused hfits, HostProg.run], fun r hr => ?_, fun rd s2 hok hrd => ?_⟩
  · have hread : (RegPort.atAddress p base addr).read = .refuse (refusalOf r) := readAt_error hr
    refine ⟨fun q hq => ?_, ?_, fun want bound => ?_⟩
    · rw [eq_readModifyWrite_of_mem hq, readModifyWrite, hread]
      rfl
    · rw [readField, hread]
      rfl
    · rw [hread, poll_refused, HostProg.run]
  · have hread : (RegPort.atAddress p base addr).read = readWord rd := readAt_ok hok
    have hwrite : (RegPort.atAddress p base addr).write = writeAt p base .w32 addr := rfl
    refine ⟨fun q hq => ?_, ?_, fun want bound later => ?_⟩
    · rw [eq_readModifyWrite_of_mem hq, readModifyWrite, hread, run_readWord_andThen hbefore hrd]
      refine ⟨fun r hr => ?_, fun wr s3 t hwr hbetween hexec => ?_⟩
      · rw [hwrite, writeAt_error hr, HostProg.run]
      · rw [hwrite, writeAt_ok hwr]
        exact run_writeWord_next hbetween hexec
    · rw [readField, hread, run_readWord_andThen hbefore hrd, HostProg.run]
    · rw [hread]
      exact ⟨fun h => run_poll_found hbefore hrd h bound, run_poll_last hbefore hrd, run_poll_again hbefore hrd⟩

end Sys2Proof.Machine
end

section
/-! PROOF. The I2C: the write of CR1 and S_START (42_i2c.md sections 2 and 3), the line protocol (section 1), and a
read-modify-write of CR2 around the end of an address phase (70_reset_and_hazards.md section 3). -/

namespace Sys2Proof.Machine

open I2c

/-! ### CR1 (R220, R232) -/

/-- Settles O39: PE = 1 enables, PE = 0 is the software reset. -/
theorem i2cCr1Write : Obligations.I2cCr1Write := by
  unfold Obligations.I2cCr1Write
  refine fun s raw => ⟨fun hbits => busWrite_i2c_reserved hbits _, fun hbits hpe => ?_, fun hbits hpe =>
    ⟨s.i2c.softReset, ?_, rfl, fun j => ?_⟩⟩
  · exact busWrite_i2c_eq hbits ((writeCr1_next _ _ _).2 (if_pos hpe).symm)
  · exact busWrite_i2c_eq hbits ((writeCr1_next _ _ _).2 (if_neg (Bool.eq_false_iff.1 hpe)).symm)
  · have hcr2 : s.i2c.softReset.cr2 = s.i2c.cr2 &&& ~~~I2cCr2.startBit &&& ~~~I2cCr2.stopBit :=
      and_not_startBit_or_stopBit s.i2c.cr2
    rw [hcr2, getLsbD_and_not_stopBit, getLsbD_and_not_startBit]

/-! ### S_START (R209) -/

theorem exec_evI2cStart {s : State} (hpe : s.i2c.pe = true) (hstart : I2cCr2.start s.i2c.cr2 = true)
    (hphase : s.i2c.phase = .idle ∧ s.i2c.isr.busy = false ∨ s.i2c.phase = .tc) :
    exec .evI2cStart s = s.onI2c s.i2c.sStart := by
  refine whenEnabled_yes ?_ _ _
  rcases hphase with ⟨hidle, hbusy⟩ | htc
  · simp [startEnabled, hpe, hstart, hidle, hbusy]
  · simp [startEnabled, hpe, hstart, htc]

/-- Settles O44: RELOAD and AUTOEND are refused; without them the step says all of what it leaves but the lines. -/
theorem i2cStartStep : Obligations.I2cStartStep := by
  unfold Obligations.I2cStartStep
  refine fun s hpe hstart hphase => ⟨fun h => ?_, fun hreload hautoend => ?_⟩
  · have hbad : (I2cCr2.reload s.i2c.cr2 || I2cCr2.autoend s.i2c.cr2) = true := (Bool.or_eq_true _ _).mpr h
    rw [exec_evI2cStart hpe hstart hphase, sStart, refuseIf_bad hbad]
    rfl
  · have hstep := (sStart_next s.i2c _).2 ⟨hreload, hautoend, rfl⟩
    refine ⟨_, (exec_evI2cStart hpe hstart hphase).trans (congrArg s.onI2c hstep), ?_⟩
    rw [← apply_ite fun a => [a]]
    exact settle_eq_scl_sda _

/-! ### A read-modify-write of CR2 (R362) -/

/-- Each defined bit of a register has one place on the bus. -/
theorem exists_place {l : Layout} (hl : LayoutValid l) {r : Reg} {b : Nat} (hb : b ∈ r.bits) : ∃ p < 32,
    (∀ w, (toBus l r w).getLsbD p = w.getLsbD b) ∧ ∀ v, (fromBus l r v).getLsbD b = v.getLsbD p := by
  obtain ⟨k, hk⟩ := List.mem_iff_getElem?.1 hb
  obtain ⟨hlt, -⟩ := List.getElem?_eq_some_iff.1 hk
  have hlt' : k < (l.of r).pos.length := hl.onePlace r ▸ hlt
  have hp := List.getElem?_eq_getElem hlt'
  exact ⟨_, hl.inWord r _ (List.getElem_mem hlt'),
    fun w => getLsbD_moveBits_of_getElem? (hl.ownPlace r) (hl.inWord r) hk hp,
    fun v => getLsbD_moveBits_of_getElem? r.bits_nodup r.bits_lt hp hk⟩

/-- A mask put on the bus sets the bits it has in the register. -/
theorem fromBus_or_toBus {l : Layout} (hl : LayoutValid l) {r : Reg} {b : Nat} (hb : b ∈ r.bits) (w m : Word) :
    (fromBus l r (toBus l r w ||| toBus l r m)).getLsbD b = (w.getLsbD b || m.getLsbD b) := by
  obtain ⟨p, -, hto, hfrom⟩ := exists_place hl hb
  rw [hfrom, BitVec.getLsbD_or, hto, hto]

/-- A mask put on the bus clears the bits it has in the register. -/
theorem fromBus_and_not_toBus {l : Layout} (hl : LayoutValid l) {r : Reg} {b : Nat} (hb : b ∈ r.bits) (w m : Word) :
    (fromBus l r (toBus l r w &&& ~~~toBus l r m)).getLsbD b = (w.getLsbD b && !m.getLsbD b) := by
  obtain ⟨p, hp, hto, hfrom⟩ := exists_place hl hb
  rw [hfrom, BitVec.getLsbD_and, BitVec.getLsbD_not, decide_eq_true hp, Bool.true_and, hto, hto]

theorem setsOnly_or {v w : Word} {bits : List Nat} (hv : SetsOnly v bits) (hw : SetsOnly w bits) :
    SetsOnly (v ||| w) bits := fun j hj => by rw [BitVec.getLsbD_or, hv j hj, hw j hj, Bool.or_false]

@[simp] theorem I2c.afterAddr_pe (i : I2c) (acts : List BusAct) : (i.afterAddr acts).pe = i.pe := by
  rw [afterAddr, settle_pe]
  split_ifs <;> rfl

theorem I2c.sAddr_pe (i : I2c) (ack lost : Bool) : (i.sAddr ack lost).pe = i.pe := by
  cases lost
  · cases ack
    · rfl
    · exact afterAddr_pe _ _
  · rfl

section ReadModifyWrite

variable {s : State} {ack lost : Bool}

/-- The I2C between the read of CR2 and its write-back: the address phase has ended. -/
def afterRead (s : State) (ack lost : Bool) : State :=
  { s.busRead .i2cCr2 s.i2c.cr2 with i2c := s.i2c.sAddr ack lost }

variable (hphase : s.i2c.phase = .addr)
include hphase

theorem runOps_addr_afterRead :
    runOps [.evI2cAddr ack lost] (s.busRead .i2cCr2 s.i2c.cr2) = .next (afterRead s ack lost) :=
  runOps_cons (exec_evI2cAddr (s := s.busRead .i2cCr2 s.i2c.cr2) hphase ack lost) []

theorem run_cr2_next {f : Word → Word} {i' : I2c}
    (hbits : SetsOnly (f (toBus s.params.layout .i2cCr2 s.i2c.cr2)) s.params.layout.i2cCr2.pos)
    (hwrite : (s.i2c.sAddr ack lost).writeCr2
      (fromBus s.params.layout .i2cCr2 (f (toBus s.params.layout .i2cCr2 s.i2c.cr2))) = .next i') :
    (readModifyWrite .i2cCr2 f).run [[], [.evI2cAddr ack lost]] s = .next ((), (afterRead s ack lost).setI2c i') :=
  (run_readWord_andThen (runOps_nil s) rfl _).trans <|
    run_writeWord_next (runOps_addr_afterRead hphase) (busWrite_i2c_eq (s := afterRead s ack lost) hbits hwrite)

theorem run_cr2_refused {f : Word → Word} {r : Refusal}
    (hbits : SetsOnly (f (toBus s.params.layout .i2cCr2 s.i2c.cr2)) s.params.layout.i2cCr2.pos)
    (hwrite : (s.i2c.sAddr ack lost).writeCr2
      (fromBus s.params.layout .i2cCr2 (f (toBus s.params.layout .i2cCr2 s.i2c.cr2))) = .refused r) :
    (readModifyWrite .i2cCr2 f).run [[], [.evI2cAddr ack lost]] s = .refused r :=
  (run_readWord_andThen (runOps_nil s) rfl _).trans <|
    run_writeWord_refused (runOps_addr_afterRead hphase) (busWrite_i2c_eq (s := afterRead s ack lost) hbits hwrite)

end ReadModifyWrite

/-- Settles O48: the address phase has cleared START, so the write-back's own START bit is what CR2 holds after it. -/
theorem readModifyWriteReissuesStart : Obligations.ReadModifyWriteReissuesStart := by
  unfold Obligations.ReadModifyWriteReissuesStart
  intro s ack lost hvalid hinv hpe hphase
  have hl := hvalid.layout
  have hstart : s.i2c.cr2.getLsbD 13 = true := hinv.startHeldInAddr hphase
  have hstop : s.i2c.cr2.getLsbD 14 = false := Bool.eq_false_iff.2 fun h => hinv.notStartAndStop ⟨hstart, h⟩
  have hpe' : (s.i2c.sAddr ack lost).pe = true := (s.i2c.sAddr_pe ack lost).trans hpe
  have hcr2 (j : Nat) : (s.i2c.sAddr ack lost).cr2.getLsbD j = (s.i2c.cr2.getLsbD j && decide (j ≠ 13)) := by
    rw [sAddr_cr2]
    exact getLsbD_and_not_startBit s.i2c.cr2 j
  have hcleared : (s.i2c.sAddr ack lost).cr2.getLsbD 13 = false := by
    rw [hcr2, decide_eq_false (by decide), Bool.and_false]
  have hidle : (s.i2c.sAddr ack lost).cr2.getLsbD 14 = false := by rw [hcr2, hstop, Bool.false_and]
  have hnewStart (v : Word) : (s.i2c.sAddr ack lost).newStart v = v.getLsbD 13 := by
    rw [newStart, I2cCr2.start, hcleared, hpe', Bool.false_or, Bool.true_and, I2cCr2.start]
  have hnewStop (v : Word) : (s.i2c.sAddr ack lost).newStop v = v.getLsbD 14 := by
    rw [newStop, I2cCr2.stop, hidle, hpe', Bool.false_or, Bool.true_and, I2cCr2.stop]
  have hcfg {P : Prop} (h : (s.i2c.sAddr ack lost).cr2.getLsbD 13 = true) : P := absurd (hcleared.symm.trans h) nofun
  refine ⟨?_, ?_, ?_⟩
  · have hback : fromBus s.params.layout .i2cCr2 (toBus s.params.layout .i2cCr2 s.i2c.cr2 ||| 0#32) = s.i2c.cr2 := by
      rw [BitVec.or_zero, fromBus_toBus hl _ hinv.cr2Reserved]
    refine ⟨_, run_cr2_next hphase (BitVec.or_zero ▸ toBus_setsOnly _ _ _) (writeCr2_stored hcfg ?_), ?_⟩
    · rw [hback, hnewStop, hstop]
      exact fun h => absurd h.2.2 nofun
    · rw [State.setI2c_i2c, hback]
      exact (i2cCr2_make_flags hinv.cr2Reserved _ _).1.trans ((hnewStart _).trans hstart)
  · refine run_cr2_refused hphase (setsOnly_or (toBus_setsOnly _ _ _) (toBus_setsOnly _ _ _))
      (writeCr2_startAndStop hcfg hpe' ?_ ?_)
    · rw [hnewStart, fromBus_or_toBus hl (by decide), hstart, Bool.true_or]
    · rw [hnewStop, fromBus_or_toBus hl (by decide)]
      exact Bool.or_true _
  · have hmasked : (fromBus s.params.layout .i2cCr2 (toBus s.params.layout .i2cCr2 s.i2c.cr2 &&&
        ~~~toBus s.params.layout .i2cCr2 0x6000#32)).getLsbD 13 = false := by
      rw [fromBus_and_not_toBus hl (by decide)]
      exact Bool.and_false _
    refine ⟨_, run_cr2_next hphase (setsOnly_and (toBus_setsOnly _ _ _) _) (writeCr2_stored hcfg ?_), ?_⟩
    · rw [hnewStart, hmasked]
      exact fun h => absurd h.2.1 nofun
    · rw [State.setI2c_i2c]
      exact (i2cCr2_make_flags (fromBus_setsOnly _ _ _) _ _).1.trans ((hnewStart _).trans hmasked)

/-! ### The line protocol (R202, R46) -/

theorem lineLevel_eq_true_iff (drivers : List Bool) : lineLevel drivers = true ↔ ∀ d ∈ drivers, d = true :=
  List.all_eq_true

/-- A line with two devices on it. -/
theorem busLevels_pair (m p : BusLevels) : busLevels [m, p] = { scl := m.scl && p.scl, sda := m.sda && p.sda } := by
  simp [busLevels, lineLevel]

/-- Bit slots that one device clocks and both drive carry the AND of what they drive. -/
theorem zipWith_bitSlot_heldBit (xs ys : List Bool) :
    List.zipWith (fun m p => busLevels [m, p]) (xs.flatMap bitSlot) (ys.flatMap heldBit) =
      (List.zipWith and xs ys).flatMap bitSlot := by
  induction xs generalizing ys with
  | nil => rfl
  | cons x xs ih =>
    cases ys with
    | nil => exact List.zipWith_nil_right
    | cons y ys =>
      have hlength : (bitSlot x).length = (heldBit y).length := rfl
      rw [List.flatMap_cons, List.flatMap_cons, List.zipWith_append hlength, ih,
        List.zipWith_cons_cons, List.flatMap_cons]
      simp [bitSlot, heldBit, busLevels_pair]

theorem linesOf_sent (b : Byte) : linesOf (.sent b) = (bitsOf b).flatMap bitSlot := by
  rw [linesOf, masterDrives, peerDrives, zipWith_bitSlot_heldBit]
  simp [bitsOf]

theorem linesOf_received (b : Byte) : linesOf (.received b) = (bitsOf b).flatMap bitSlot := by
  rw [linesOf, masterDrives, peerDrives, zipWith_bitSlot_heldBit]
  simp [bitsOf]

theorem linesOf_acknowledge : linesOf .ack = bitSlot false ∧ linesOf .nack = bitSlot true ∧
    linesOf .targetAck = bitSlot false ∧ linesOf .targetNack = bitSlot true := by decide

/-- From one moment to the next, SDA does not change while SCL is 1. -/
def SdaHeld (x y : BusLevels) : Prop := x.scl = true → y.scl = true → x.sda = y.sda

/-- In a bit slot SDA is set while SCL is 0. -/
theorem sdaHeld_slots (bits : List Bool) : (bits.flatMap bitSlot).IsChain SdaHeld := by
  induction bits with
  | nil => exact .nil
  | cons b bits ih =>
    cases bits with
    | nil => exact .cons_cons nofun (.singleton _)
    | cons c bits => exact .cons_cons nofun (.cons_cons nofun ih)

theorem sdaHeld_linesOf {a : BusAct} (ha : a ∉ [BusAct.start, .repeatedStart, .stop]) :
    (linesOf a).IsChain SdaHeld := by
  obtain ⟨hack, hnack, htargetAck, htargetNack⟩ := linesOf_acknowledge
  have hslot (b : Bool) : (bitSlot b).IsChain SdaHeld := sdaHeld_slots [b]
  cases a with
  | start => simp at ha
  | repeatedStart => simp at ha
  | stop => simp at ha
  | sent b => exact linesOf_sent b ▸ sdaHeld_slots _
  | received b => exact linesOf_received b ▸ sdaHeld_slots _
  | ack => exact hack ▸ hslot false
  | nack => exact hnack ▸ hslot true
  | targetAck => exact htargetAck ▸ hslot false
  | targetNack => exact htargetNack ▸ hslot true
  | released => exact .singleton _

/-! ### What the receiver of a byte samples (R202) -/

/-- The receiver of bit slots samples each bit once. -/
theorem samples_slots (bits : List Bool) : ((bits.flatMap bitSlot).filter (·.scl)).map (·.sda) = bits := by
  induction bits with
  | nil => rfl
  | cons b bits ih => exact congrArg (b :: ·) ih

theorem getElem?_bitsOf_append (b : Byte) (rest : List Bool) {k : Nat} (hk : k < 8) :
    (bitsOf b ++ rest)[k]? = some (b.getLsbD (7 - k)) := by
  interval_cases k <;> rfl

/-- A byte and its acknowledge slot, whatever follows them, are sampled most significant bit first. -/
theorem I2c.sdaSamples_byte {i : I2c} {a answer : BusAct} {rest : List BusAct} {b : Byte} {x : Bool}
    (hwire : i.wire = a :: answer :: rest) (ha : linesOf a = (bitsOf b).flatMap bitSlot)
    (hanswer : linesOf answer = bitSlot x) :
    (∀ k < 8, i.sdaSamples[k]? = some (b.getLsbD (7 - k))) ∧ i.sdaSamples[8]? = some x := by
  have hsamples : i.sdaSamples = bitsOf b ++ x :: ((rest.flatMap linesOf).filter (·.scl)).map (·.sda) := by
    rw [sdaSamples, linesIn, hwire, List.flatMap_cons, List.flatMap_cons, ha, hanswer, List.filter_append,
      List.filter_append, List.map_append, List.map_append, samples_slots]
    rfl
  rw [hsamples]
  exact ⟨fun k hk => getElem?_bitsOf_append b _ hk, rfl⟩

theorem I2c.sTxByte_ack_wire (i : I2c) : (i.sTxByte true false).wire = [.sent i.txdr, .targetAck] := by
  rw [sTxByte, if_neg Bool.false_ne_true, if_neg (by decide), settle_wire]
  split_ifs <;> rfl

theorem I2c.sRxByte_wire (i : I2c) (data : Byte) :
    (i.sRxByte data).wire = [.received data, if i.remaining ≤ 1 then .nack else .ack] := by
  rw [sRxByte, settle_wire]
  rcases Nat.lt_or_ge 1 i.remaining with hmore | hlast
  · rw [if_pos (by exact Nat.sub_pos_of_lt hmore), if_neg (Nat.not_le.2 hmore)]
  · rw [if_neg (by dsimp only; omega), if_pos hlast]

theorem I2c.sAddr_nack_wire (i : I2c) : (i.sAddr false false).wire =
    refusedAt (Config.refusedByte i.draws % bytesSent (I2cCr2.addressPhase i.cr2)) (I2cCr2.addressPhase i.cr2) ++
      [.stop] := rfl

theorem bytesSent_single (b : Byte) : bytesSent [.sent b] = 1 := rfl

/-- A 7-bit address byte is SADD[7:1] and the direction (R207). -/
theorem I2cCr2.getLsbD_addr7 (v : Word) {j : Nat} (hj : j < 8) :
    (addr7 v).getLsbD j = if j = 0 then v.getLsbD 10 else v.getLsbD j := by
  rw [addr7, BitVec.getLsbD_append]
  cases j with
  | zero => exact BitVec.getLsbD_ofBool _ _
  | succ j =>
    rw [if_neg (Nat.succ_ne_zero j), BitVec.getLsbD_extractLsb', sadd, BitVec.getLsbD_extractLsb']
    have hsadd : j + 1 < 10 := by omega
    have hfield : j < 7 := by omega
    simp [hsadd, hfield, Nat.add_comm 1 j]

/-- Settles O43: every byte is bit slots, in which SDA moves only while SCL is 0 and is sampled while SCL is 1; the
acknowledge slot of it follows. -/
theorem i2cLineProtocol : Obligations.I2cLineProtocol := by
  unfold Obligations.I2cLineProtocol
  obtain ⟨hack, hnack, htargetAck, htargetNack⟩ := linesOf_acknowledge
  refine ⟨lineLevel_eq_true_iff, by decide, by decide, by decide, fun a ha k x y hx hy => ?_,
    fun s ack hphase htxe => ⟨_, exec_evI2cTxByte hphase htxe ack false, ?_⟩,
    fun s data hphase hrxne => ⟨_, exec_evI2cRxByte hphase hrxne data, ?_⟩,
    fun s ack hphase hadd => ⟨_, exec_evI2cAddr hphase ack false, ?_⟩⟩
  · obtain ⟨hlt, rfl⟩ := List.getElem?_eq_some_iff.1 hx
    obtain ⟨hlt', rfl⟩ := List.getElem?_eq_some_iff.1 hy
    exact (sdaHeld_linesOf ha).getElem k hlt'
  · cases ack
    · exact sdaSamples_byte (congrArg I2c.wire s.i2c.sTxByte_nack) (linesOf_sent _) htargetNack
    · exact sdaSamples_byte s.i2c.sTxByte_ack_wire (linesOf_sent _) htargetAck
  · have hanswer : linesOf (if s.i2c.remaining ≤ 1 then .nack else .ack) =
        bitSlot (decide (s.i2c.remaining ≤ 1)) := by
      by_cases hlast : s.i2c.remaining ≤ 1
      · rw [if_pos hlast, decide_eq_true hlast, hnack]
      · rw [if_neg hlast, decide_eq_false hlast, hack]
    exact sdaSamples_byte (s.i2c.sRxByte_wire data) (linesOf_received data) hanswer
  · have hphase7 : I2cCr2.addressPhase s.i2c.cr2 = [.sent (I2cCr2.addr7 s.i2c.cr2)] := I2cCr2.addressPhase_7bit hadd
    have hsampled : (∀ k < 8, (s.i2c.sAddr ack false).sdaSamples[k]? =
        some ((I2cCr2.addr7 s.i2c.cr2).getLsbD (7 - k))) ∧ (s.i2c.sAddr ack false).sdaSamples[8]? = some (!ack) := by
      cases ack
      · refine sdaSamples_byte (rest := [.stop]) ?_ (linesOf_sent _) htargetNack
        rw [sAddr_nack_wire, hphase7, bytesSent_single, Nat.mod_one]
        rfl
      · refine sdaSamples_byte (rest := []) ?_ (linesOf_sent _) htargetAck
        rw [sAddr_ack_wire, hphase7]
        rfl
    obtain ⟨hbyte, hanswer⟩ := hsampled
    refine ⟨fun k hk => ?_, ?_, hanswer⟩
    · rw [hbyte k (by omega), I2cCr2.getLsbD_addr7 _ (by omega), if_neg (by omega)]
    · rw [hbyte 7 (by decide), I2cCr2.getLsbD_addr7 _ (by decide), if_pos (by decide)]

end Sys2Proof.Machine
end

section
/-! PROOF. The writes of the SPI's CR1 and CR2 (43_spi.md section 4, R259, R270, R272). -/

namespace Sys2Proof.Machine

section Write

variable {s : State} {r : Reg} {raw : Word}

theorem busWrite_spi_reserved (h : ¬SetsOnly raw (s.params.layout.of r).pos) (write : Word → OutcomeOf Spi) :
    s.busWrite r raw (fun w => s.onSpi (write w)) = .refused .reservedBit := busWrite_reserved h _

/-- A write with no reserved bit does to the SPI what the register's own rule says, and that alone. -/
theorem busWrite_spi_eq {write : Word → OutcomeOf Spi} {o : OutcomeOf Spi}
    (hbits : SetsOnly raw (s.params.layout.of r).pos) (h : write (fromBus s.params.layout r raw) = o) :
    s.busWrite r raw (fun w => s.onSpi (write w)) = s.onSpi o :=
  (busWrite_defined hbits _).trans (congrArg s.onSpi h)

end Write

namespace Spi

variable {p : Spi} {v : Word}

/-! ### CR1 (R270) -/

theorem storeCr1_eq (p : Spi) (v : Word) : p.storeCr1 v = { p with
    cr1 := v, modf := if p.modfSeq then false else p.modf, modfSeq := false
    sck := if v.getLsbD 6 then p.sck else v.getLsbD 1 } := by
  rw [storeCr1, and_not_eq_ite]
  rfl

theorem writeCr1_crcPhase (h : SpiCr1.crcnext v = true) : p.writeCr1 v = .refused .crcPhase := refuseIf_bad h _ _

theorem writeCr1_slaveMode (hcrc : SpiCr1.crcnext v = false) (hspe : SpiCr1.spe v = true)
    (hmstr : SpiCr1.mstr v = false) : p.writeCr1 v = .refused .slaveMode := by
  have hslave : (SpiCr1.spe v && !SpiCr1.mstr v) = true := by rw [hspe, hmstr]; rfl
  rw [writeCr1, refuseIf_good hcrc, refuseIf_bad hslave]

theorem writeCr1_guarded (hcrc : SpiCr1.crcnext v = false) (hspe : SpiCr1.spe v = true)
    (hmstr : SpiCr1.mstr v = true) (hold : SpiCr1.spe p.cr1 = true)
    (hconfig : SpiCr1.config v ≠ SpiCr1.config p.cr1) : p.writeCr1 v = .refused .configWhileEnabled := by
  have hmaster : (SpiCr1.spe v && !SpiCr1.mstr v) = false := by rw [hspe, hmstr]; rfl
  rw [writeCr1, refuseIf_good hcrc, refuseIf_good hmaster, refuseIf_bad (by simp [hspe, hold, hconfig])]

/-! ### CR2 (R272) -/

theorem forcedDs_toNat (v : Word) : (SpiCr2.forcedDs v).toNat =
    if (v.extractLsb' 8 4).toNat < 3 then 7 else (v.extractLsb' 8 4).toNat := apply_ite BitVec.toNat _ _ _

theorem holdsData_eq_true_iff : p.holdsData = true ↔ p.txf ≠ [] ∨ p.rxf ≠ [] := by simp [holdsData]

theorem writeCr2_guarded (hold : SpiCr1.spe p.cr1 = true)
    (h : SpiCr2.forcedDs v ≠ SpiCr2.ds p.cr2 ∨ SpiCr2.frxth v ≠ SpiCr2.frxth p.cr2) :
    p.writeCr2 v = .refused .configWhileEnabled :=
  refuseIf_bad (by simpa only [hold, Bool.true_and, Bool.or_eq_true, bne_iff_ne] using h) _ _

theorem writeCr2_withData (hold : SpiCr1.spe p.cr1 = false) (hdata : p.holdsData = true)
    (h : SpiCr2.forcedDs v ≠ SpiCr2.ds p.cr2) : p.writeCr2 v = .refused .configWithData := by
  have hguard : (SpiCr1.spe p.cr1 && (SpiCr2.forcedDs v != SpiCr2.ds p.cr2 ||
      SpiCr2.frxth v != SpiCr2.frxth p.cr2)) = false := by rw [hold, Bool.false_and]
  rw [writeCr2, refuseIf_good hguard, refuseIf_bad (by simpa only [hdata, Bool.true_and, bne_iff_ne] using h)]

end Spi

open Spi in
/-- Settles O51: the checks of each rule in their order, and then the write; the fault that CR1 records leaves the
shifter, the bytes left and MOSI free. -/
theorem spiControlWrites : Obligations.SpiControlWrites := by
  unfold Obligations.SpiControlWrites
  refine fun s raw => ⟨⟨fun hbits => busWrite_spi_reserved hbits _, fun hbits => ⟨fun hcrc => ?_,
    fun hcrc hspe hmstr => ?_, fun hcrc hspe hmstr hold hchange => ?_, fun hcrc hlegal => ?_⟩⟩,
    fun hbits => busWrite_spi_reserved hbits _, fun hbits => ?_⟩
  · exact busWrite_spi_eq hbits (writeCr1_crcPhase hcrc)
  · exact busWrite_spi_eq hbits (writeCr1_slaveMode hcrc hspe hmstr)
  · obtain ⟨j, hj, hne⟩ := hchange
    exact busWrite_spi_eq hbits
      (writeCr1_guarded hcrc hspe hmstr hold fun h => hne (SpiCr1.config_eq_iff.1 h j hj))
  · have hwrite := busWrite_spi_eq hbits ((writeCr1_next s.spi _ _).2 ⟨hcrc, fun hspe => (hlegal hspe).1,
      fun hold hspe => SpiCr1.config_eq_iff.2 ((hlegal hspe).2 hold), rfl⟩)
    have hbusy : (SpiCr1.spe s.spi.cr1 && !SpiCr1.spe (fromBus s.params.layout .spiCr1 raw) &&
        s.spi.underWay) = true ↔
        (fromBus s.params.layout .spiCr1 raw).getLsbD 6 = false ∧ s.spi.cr1.getLsbD 6 = true ∧
          (s.spi.sh.busy = true ∨ s.spi.txf ≠ []) := by
      rw [Bool.and_eq_true, Bool.and_eq_true, Bool.not_eq_true', underWay_eq_true_iff, and_assoc, and_left_comm]
      rfl
    refine ⟨fun hquiet => hwrite.trans ?_, fun hdisables => ⟨_, hwrite, ?_⟩⟩
    · rw [if_neg (mt hbusy.1 hquiet), storeCr1_eq]
      rfl
    · rw [if_pos (hbusy.2 hdisables), storeCr1_eq]
      rfl
  · rw [← forcedDs_toNat]
    have hds {v : Word} : (SpiCr2.forcedDs v).toNat = (s.spi.cr2.extractLsb' 8 4).toNat ↔
      SpiCr2.forcedDs v = SpiCr2.ds s.spi.cr2 := BitVec.toNat_inj
    refine ⟨fun hold hchange => ?_, fun hold hdata hchange => ?_, fun hfrxth hwidth =>
      ⟨SpiCr2.stored (fromBus s.params.layout .spiCr2 raw), ?_, ?_, ?_, ?_⟩⟩
    · exact busWrite_spi_eq hbits (writeCr2_guarded hold (hchange.imp_left (mt hds.2)))
    · exact busWrite_spi_eq hbits (writeCr2_withData hold (holdsData_eq_true_iff.2 hdata) (mt hds.2 hchange))
    · exact busWrite_spi_eq hbits ((writeCr2_next s.spi _ _).2 ⟨fun hold => ⟨hds.1 (hwidth (.inl hold)), hfrxth hold⟩,
        fun hdata => hds.1 (hwidth (.inr (holdsData_eq_true_iff.1 hdata))), rfl⟩)
    · exact congrArg BitVec.toNat (stored_fields _).1
    · exact (stored_fields _).2
    · exact stored_setsOnly _

end Sys2Proof.Machine
end

section
/-! PROOF. The steps of the SPI's shifter, and a whole frame of them (43_spi.md sections 2 and 3). -/

namespace Sys2Proof.Machine

namespace Spi

variable {p : Spi}

/-! ### The frame that is loaded (R263) -/

theorem lowBits_toNat (n : Nat) (hn : n ≤ 16) (f : BitVec 16) : (lowBits n f).toNat = f.toNat % 2 ^ n := by
  have hmask : 2 ^ n - 1 < 2 ^ 16 := Nat.lt_of_lt_of_le (Nat.sub_lt (Nat.two_pow_pos n) Nat.one_pos)
    (Nat.pow_le_pow_right (by decide) hn)
  rw [lowBits, BitVec.toNat_and, BitVec.toNat_ofNat, Nat.mod_eq_of_lt hmask, Nat.and_two_pow_sub_one_eq_mod]

theorem frameBytes_narrow (h : p.frameBits ≤ 8) : p.frameBytes = 1 := if_pos h

theorem frameBytes_wide (h : 8 < p.frameBits) : p.frameBytes = 2 := if_neg h.not_ge

theorem nextFrame_narrow (h : p.frameBits ≤ 8) : p.nextFrame = (p.txf[0]?.getD 0#8).setWidth 16 :=
  if_pos (frameBytes_narrow h)

theorem nextFrame_wide (h : 8 < p.frameBits) : p.nextFrame = p.txf[1]?.getD 0#8 ++ p.txf[0]?.getD 0#8 :=
  if_neg (by rw [frameBytes_wide h]; decide)

theorem loadEnabled_eq_true_iff : p.loadEnabled = true ↔ SpiCr1.spe p.cr1 = true ∧ SpiCr1.mstr p.cr1 = true ∧
    p.sh.busy = false ∧ p.frameBytes ≤ p.txf.length := by
  simp [loadEnabled, running, and_assoc]

/-! ### The bit that is captured (R264) and the frame that is delivered (R265) -/

theorem frameAsBytes_eq_take (p : Spi) (rx : BitVec 16) :
    p.frameAsBytes rx = [rx.extractLsb' 0 8, rx.extractLsb' 8 8].take p.frameBytes := by
  rw [frameAsBytes]
  obtain h | h := p.frameBytes_cases
  · rw [if_pos h, h]
    rfl
  · rw [if_neg (by omega), h]
    rfl

/-- A frame that differs in the bit captured alone. -/
theorem eq_setFrameBit {rx f : BitVec 16} {i : Nat} {m : Bool} (hi : i < 16)
    (h : ∀ j < 16, rx.getLsbD j = if j = i then m else f.getLsbD j) : rx = setFrameBit f i m :=
  BitVec.eq_of_getLsbD_eq fun j hj => (h j hj).trans (getLsbD_setFrameBit f i m hi j).symm

/-! ### The mode fault (R267) -/

theorem getLsbD_modfCleared (v : Word) (j : Nat) : (v &&& ~~~(SpiCr1.speBit ||| SpiCr1.mstrBit)).getLsbD j =
    (v.getLsbD j && decide (j ≠ 2) && decide (j ≠ 6)) := by
  rw [BitVec.or_comm, BitVec.not_or, ← BitVec.and_assoc]
  exact (getLsbD_and_not_bitWord _ 6 j).trans (congrArg (· && _) (getLsbD_and_not_bitWord v 2 j))

theorem exec_evSpiModf {s : State} (hspe : SpiCr1.spe s.spi.cr1 = true) (hmstr : SpiCr1.mstr s.spi.cr1 = true)
    (nssIn : Bool) : exec (.evSpiModf nssIn) s = .next (s.setSpi (s.spi.sModf nssIn)) :=
  whenEnabled_yes (by rw [running, hspe, hmstr]; rfl) _ _

end Spi

open Spi in
/-- Settles O52: the frame that is loaded is the one of that value, the register that has captured the bit is the one
with those bits, and the internal slave-select says whether S_MODF does anything. -/
theorem spiShiftSteps : Obligations.SpiShiftSteps := by
  unfold Obligations.SpiShiftSteps
  refine fun s hspe => ⟨fun hmstr hbusy frame => ⟨fun a rest htxf hn hframe => ?_, fun a b rest htxf hn hframe => ?_⟩,
    fun hbusy hcnt m rx hrx => ?_, fun hmstr nssIn => ⟨fun hnss => ?_, fun hnss =>
      ⟨s.spi.cr1 &&& ~~~(SpiCr1.speBit ||| SpiCr1.mstrBit), ?_, getLsbD_modfCleared s.spi.cr1⟩⟩⟩
  · have hbytes := frameBytes_narrow (p := s.spi) hn
    have hload : lowBits s.spi.frameBits s.spi.nextFrame = frame := by
      refine BitVec.eq_of_toNat_eq ?_
      rw [lowBits_toNat _ s.spi.frameBits_le, nextFrame_narrow hn, htxf, hframe]
      rw [List.getElem?_cons_zero, Option.getD_some, BitVec.toNat_setWidth_of_le (by decide)]
      rfl
    rw [exec_evSpiLoad (loadEnabled_eq_true_iff.2 ⟨hspe, hmstr, hbusy, by rw [hbytes, htxf]; simp⟩), sLoad, hload,
      hbytes, htxf]
    rfl
  · have hbytes := frameBytes_wide (p := s.spi) hn
    have hload : lowBits s.spi.frameBits s.spi.nextFrame = frame := by
      refine BitVec.eq_of_toNat_eq ?_
      rw [lowBits_toNat _ s.spi.frameBits_le, nextFrame_wide hn, htxf, hframe, toNat_append_eq_add]
      rfl
    rw [exec_evSpiLoad (loadEnabled_eq_true_iff.2 ⟨hspe, hmstr, hbusy, by rw [hbytes, htxf]; simp⟩), sLoad, hload,
      hbytes, htxf]
    rfl
  · have hindex : s.spi.bitIndex < 16 := Nat.lt_of_lt_of_le (bitIndex_lt hcnt) s.spi.frameBits_le
    obtain rfl := eq_setFrameBit hindex hrx
    have hstep := exec_evSpiBit (s := s) (Bool.and_eq_true_iff.2 ⟨hspe, hbusy⟩) m
    refine ⟨fun hnext => ?_, fun hlast => ?_⟩
    · rw [hstep, sBit_next hnext]
      rfl
    · rw [hstep, sBit_last hlast.ge, frameDone, frameAsBytes_eq_take]
      rfl
  · rw [exec_evSpiModf hspe hmstr, sModf, if_pos (by exact hnss)]
    rfl
  · rw [exec_evSpiModf hspe hmstr, sModf, if_neg (by exact Bool.eq_false_iff.1 hnss)]
    rfl

/-! ### A whole frame (R261 to R265) -/

theorem exchangedBit_lt {lsb : Bool} {n k : Nat} (hk : k < n) : exchangedBit lsb n k < n := by
  unfold exchangedBit
  split <;> omega

theorem exchangedBit_injOn {lsb : Bool} {n j k : Nat} (hj : j < n) (hk : k < n)
    (h : exchangedBit lsb n j = exchangedBit lsb n k) : j = k := by
  unfold exchangedBit at h
  split at h <;> omega

/-- A receive register that holds the bits captured so far, each at its place, and no other. -/
structure Captured (lsb : Bool) (n : Nat) (bits : List Bool) (f : BitVec 16) : Prop where
  held : ∀ k < bits.length, some (f.getLsbD (exchangedBit lsb n k)) = bits[k]?
  rest : ∀ j, (∀ k < bits.length, exchangedBit lsb n k ≠ j) → f.getLsbD j = false

theorem Captured.concat {lsb : Bool} {n : Nat} {bits : List Bool} {f : BitVec 16} (h : Captured lsb n bits f)
    (hn : n ≤ 16) (hroom : bits.length < n) (m : Bool) :
    Captured lsb n (bits ++ [m]) (Spi.setFrameBit f (exchangedBit lsb n bits.length) m) := by
  have hplace := Nat.lt_of_lt_of_le (exchangedBit_lt (lsb := lsb) hroom) hn
  constructor
  · intro k hk
    rw [Spi.getLsbD_setFrameBit _ _ _ hplace]
    rw [List.length_append, List.length_singleton] at hk
    rcases Nat.lt_succ_iff_lt_or_eq.1 hk with hlt | rfl
    · rw [if_neg fun heq => hlt.ne (exchangedBit_injOn (by omega) hroom heq), List.getElem?_append_left hlt]
      exact h.held k hlt
    · rw [if_pos rfl, List.getElem?_concat_length]
  · intro j hj
    rw [List.length_append, List.length_singleton] at hj
    rw [Spi.getLsbD_setFrameBit _ _ _ hplace, if_neg (hj _ (Nat.lt_succ_self _)).symm]
    exact h.rest j fun k hk => hj k (Nat.lt_succ_of_lt hk)

/-- Once the whole frame has been captured, no other bit is set. -/
theorem Captured.whole {lsb : Bool} {n : Nat} {bits : List Bool} {f : BitVec 16} (h : Captured lsb n bits f)
    (hlength : bits.length = n) :
    (∀ k < n, some (f.getLsbD (exchangedBit lsb n k)) = bits[k]?) ∧ ∀ j, n ≤ j → f.getLsbD j = false := by
  subst hlength
  exact ⟨h.held, fun j hj => h.rest j fun k hk heq => by
    have hlt := exchangedBit_lt (lsb := lsb) hk
    omega⟩

namespace Spi

variable {p q : Spi}

/-- A frame under way: of the frame loaded in `p`, the bits of MISO so far have been exchanged. -/
structure Exchanging (p : Spi) (bits : List Bool) (q : Spi) : Prop where
  cr1 : q.cr1 = p.cr1
  cr2 : q.cr2 = p.cr2
  fifos : q.txf = p.txf ∧ q.rxf = p.rxf ∧ q.ovr = p.ovr
  tx : q.sh.tx = p.sh.tx
  cnt : q.sh.cnt = bits.length
  rx : Captured (SpiCr1.lsbfirst p.cr1) p.frameBits bits q.sh.rx

namespace Exchanging

variable {bits : List Bool}

theorem frameBits_eq (h : Exchanging p bits q) : q.frameBits = p.frameBits := by rw [frameBits, h.cr2]; rfl

theorem bitIndex_eq (h : Exchanging p bits q) :
    q.bitIndex = exchangedBit (SpiCr1.lsbfirst p.cr1) p.frameBits bits.length := by
  rw [bitIndex, h.cr1, h.cnt, h.frameBits_eq]
  rfl

/-- The register once the bit has been captured. -/
theorem exchange_rx (h : Exchanging p bits q) (hroom : bits.length < p.frameBits) (m : Bool) :
    Captured (SpiCr1.lsbfirst p.cr1) p.frameBits (bits ++ [m]) (q.exchange m).sh.rx := by
  rw [exchange, h.bitIndex_eq]
  exact h.rx.concat p.frameBits_le hroom m

theorem sBit (h : Exchanging p bits q) (hnext : bits.length + 1 < p.frameBits) (m : Bool) :
    Exchanging p (bits ++ [m]) (q.sBit m) := by
  have hrx := h.exchange_rx (Nat.lt_of_succ_lt hnext) m
  have hcnt : q.sh.cnt + 1 = (bits ++ [m]).length := by rw [h.cnt, List.length_append, List.length_singleton]
  rw [sBit_next (by rw [h.cnt, h.frameBits_eq]; exact hnext)]
  exact ⟨h.cr1, h.cr2, h.fifos, h.tx, hcnt, hrx⟩

theorem foldl_sBit (h : Exchanging p bits q) {ms : List Bool} (hroom : bits.length + ms.length < p.frameBits) :
    Exchanging p (bits ++ ms) (ms.foldl Spi.sBit q) := by
  induction ms generalizing bits q with
  | nil => exact (List.append_nil bits).symm ▸ h
  | cons m ms ih =>
    rw [List.length_cons] at hroom
    rw [List.foldl_cons, List.append_cons]
    exact ih (h.sBit (by omega) m) (by rw [List.length_append, List.length_singleton]; omega)

/-- The last bit delivers the frame, or loses it and sets OVR (R265). -/
theorem sBit_last (h : Exchanging p bits q) (hlast : bits.length + 1 = p.frameBits) (m : Bool) :
    ∃ f, Captured (SpiCr1.lsbfirst p.cr1) p.frameBits (bits ++ [m]) f ∧ (q.sBit m).sh.busy = false ∧
      (q.sBit m).txf = p.txf ∧
      (q.sBit m).rxf = (if p.rxf.length + p.frameBytes ≤ 4 then
        p.rxf ++ [f.extractLsb' 0 8, f.extractLsb' 8 8].take p.frameBytes else p.rxf) ∧
      (q.sBit m).ovr = (if p.rxf.length + p.frameBytes ≤ 4 then p.ovr else true) := by
  obtain ⟨htxf, hrxf, hovr⟩ := h.fifos
  have hbytes : q.frameBytes = p.frameBytes := by rw [frameBytes, h.frameBits_eq]; rfl
  have hbytes' : (q.exchange m).frameBytes = p.frameBytes := hbytes
  have hrxf' : (q.exchange m).rxf = p.rxf := hrxf
  have hovr' : (q.exchange m).ovr = p.ovr := hovr
  refine ⟨_, h.exchange_rx (by omega) m, ?_⟩
  rw [Spi.sBit_last (by rw [h.cnt, h.frameBits_eq]; exact hlast.ge), frameDone_rxf, frameDone_ovr,
    frameAsBytes_eq_take, hbytes', hrxf', hovr']
  exact ⟨rfl, htxf, rfl, rfl⟩

theorem of_load (p : Spi) : Exchanging p.sLoad [] p.sLoad :=
  ⟨rfl, rfl, ⟨rfl, rfl, rfl⟩, rfl, rfl, nofun, fun _ _ => BitVec.getLsbD_zero⟩

end Exchanging

/-- What MOSI carries after so many bits is the next bit of the frame. -/
theorem sBit_mosi (q : Spi) (m : Bool) : (q.sBit m).mosi = q.sh.tx.getLsbD q.bitIndex :=
  (congrArg mosi (sBit_frame q m)).trans rfl

/-- The frame at the head of the transmit FIFO (R263). -/
theorem nextFrame_eq (p : Spi) : p.nextFrame = if p.frameBits ≤ 8 then (p.txf.headD 0#8).setWidth 16
    else p.txf.tail.headD 0#8 ++ p.txf.headD 0#8 := by
  by_cases hn : p.frameBits ≤ 8
  · rw [nextFrame_narrow hn, if_pos hn]
    cases p.txf <;> rfl
  · rw [nextFrame_wide (Nat.lt_of_not_le hn), if_neg hn]
    match p.txf with
    | [] => rfl
    | [_] => rfl
    | _ :: _ :: _ => rfl

end Spi

open Spi in
/-- Settles O53: after k bits the shifter is at bit k of the frame loaded and holds the k bits captured; the last of
them delivers the register. -/
theorem spiFrameExchange : Obligations.SpiFrameExchange := by
  unfold Obligations.SpiFrameExchange
  intro s miso _ hload hlength
  have hunder {k : Nat} (hk : k < s.spi.frameBits) :
      Exchanging s.spi.sLoad (miso.take k) ((miso.take k).foldl Spi.sBit s.spi.sLoad) :=
    (Exchanging.of_load s.spi).foldl_sBit (by
      rw [List.length_nil, Nat.zero_add, List.length_take]
      exact (Nat.min_le_left _ _).trans_lt hk)
  have hlen {k : Nat} (hk : k < s.spi.frameBits) : (miso.take k).length = k := by rw [List.length_take]; omega
  have hsplit {k : Nat} (hk : k < s.spi.frameBits) : (miso.take (k + 1)).foldl Spi.sBit s.spi.sLoad =
      ((miso.take k).foldl Spi.sBit s.spi.sLoad).sBit (miso[k]'(by omega)) := by
    rw [← List.take_append_getElem (by omega), List.foldl_append]
    rfl
  refine ⟨fun k hk => ⟨_, runOps_load_bits hload ((List.length_take_le _ _).trans hk), ?_⟩, ?_⟩
  · rw [State.setSpi_spi, hsplit hk, sBit_mosi, (hunder hk).bitIndex_eq, (hunder hk).tx, hlen hk, ← nextFrame_eq]
    refine (getLsbD_lowBits _ s.spi.frameBits_le _ _).trans ?_
    exact (congrArg (_ && ·) (decide_eq_true (exchangedBit_lt hk))).trans (Bool.and_true _)
  · obtain ⟨k, hk⟩ : ∃ k, s.spi.frameBits = k + 1 := ⟨_, rfl⟩
    have hlt : k < s.spi.frameBits := by omega
    have hall : miso.take (k + 1) = miso := List.take_of_length_le (by omega)
    obtain ⟨f, hcaptured, hbusy, htxf, hrxf, hovr⟩ :=
      (hunder hlt).sBit_last (by rw [hlen hlt]; exact hk.symm) (miso[k]'(by omega))
    rw [← hsplit hlt, hall] at hbusy htxf hrxf hovr
    rw [List.take_append_getElem (by omega), hall] at hcaptured
    obtain ⟨hheld, hrest⟩ := hcaptured.whole hlength
    exact ⟨_, f, runOps_load_bits hload hlength.le, hheld, hrest, hbusy, htxf,
      fun hfits => ⟨hrxf.trans (if_pos hfits), hovr.trans (if_pos hfits)⟩,
      fun hlost => ⟨hrxf.trans (if_neg hlost.not_ge), hovr.trans (if_neg hlost.not_ge)⟩⟩

end Sys2Proof.Machine
end

section
/-! PROOF. The times at which IDLE and RTOF rise with the line high, and a frame on the receive line
(41_usart.md sections 3 and 5). -/

namespace Sys2Proof.Machine

namespace Usart

variable {u v : Usart}

/-! ### The line stays high (R167, R168) -/

/-- A property that every tick carries on, after any number of ticks with the line high. -/
theorem foldl_tick_high {P : Nat → Usart → Prop} (h0 : P 0 u) (hstep : ∀ n u, P n u → P (n + 1) (u.tick true))
    (n : Nat) : P n ((List.replicate n true).foldl tick u) := by
  induction n with
  | zero => exact h0
  | succ n ih =>
    rw [List.replicate_succ', List.foldl_append]
    exact hstep n _ ih

/-- A receiver that hunts, under the configuration of `v`. -/
structure Hunting (v u : Usart) : Prop where
  cr1 : u.cr1 = v.cr1
  cr2 : u.cr2 = v.cr2
  rto : u.rto = v.rto
  enabled : UsartCr1.re v.cr1 = true
  state : u.rx.state = .hunt

theorem Hunting.re (h : Hunting v u) : UsartCr1.re u.cr1 = true := h.cr1 ▸ h.enabled

theorem Hunting.nOs_eq (h : Hunting v u) : u.nOs = v.nOs := congrArg UsartCr1.nOs h.cr1

theorem Hunting.nFrame_eq (h : Hunting v u) : u.nFrame = v.nFrame := by
  rw [nFrame, nData, nStop, h.cr1, h.cr2]
  rfl

theorem Hunting.quiet (h : Hunting v u) : u.HuntsQuietly true := ⟨h.state, nofun⟩

theorem Hunting.rxFrame (h : Hunting v u) : u.rxFrame true = u := rxFrame_hunt_quiet h.state nofun

theorem Hunting.tick (h : Hunting v u) : Hunting v (u.tick true) := by
  obtain ⟨hcr1, hcr2, -, hrto, -⟩ := u.tick_config true
  obtain ⟨hstate, -⟩ := tick_frame h.re true
  exact ⟨hcr1.trans h.cr1, hcr2.trans h.cr2, hrto.trans h.rto, h.enabled,
    hstate.trans ((congrArg (·.rx.state) h.rxFrame).trans h.state)⟩

/-- The idle-line detector, `n` ticks after a frame: it counts, and has set IDLE once the gap is a frame long. -/
structure IdleGap (v : Usart) (n : Nat) (u : Usart) : Prop where
  hunting : Hunting v u
  counts : n < v.nFrame * v.nOs → u.rx.idleCnt = n ∧ u.rx.idleArmed = true ∧ u.isr.idle = false
  idle : v.nFrame * v.nOs ≤ n → u.isr.idle = true

theorem IdleGap.tick {n : Nat} (h : IdleGap v n u) : IdleGap v (n + 1) (u.tick true) := by
  obtain ⟨hcnt, harmed, hidle⟩ := tick_idleDetect h.hunting.re true
  have hlimit : u.nFrame * u.nOs = v.nFrame * v.nOs := by rw [h.hunting.nFrame_eq, h.hunting.nOs_eq]
  rw [h.hunting.rxFrame] at hcnt harmed hidle
  refine ⟨h.hunting.tick, fun hlt => ?_, fun hle => ?_⟩
  · obtain ⟨hcnt', harmed', hidle'⟩ := h.counts (Nat.lt_of_succ_lt hlt)
    rw [hcnt, harmed, hidle, idleDetect_counts h.hunting.quiet (by rw [hcnt', hlimit]; exact hlt)]
    exact ⟨congrArg (· + 1) hcnt', harmed', hidle'⟩
  · rw [hidle]
    rcases Nat.lt_or_ge n (v.nFrame * v.nOs) with hlt | hge
    · obtain ⟨hcnt', harmed', -⟩ := h.counts hlt
      rw [idleDetect_sets h.hunting.quiet (by rw [hcnt', hlimit]; exact hle) harmed']
    · exact idleDetect_idle (h.idle hge)

/-- The timeout detector, `n` ticks after a frame: it counts bit times, and has set RTOF once there are enough. -/
structure TimeoutGap (v : Usart) (n : Nat) (u : Usart) : Prop where
  hunting : Hunting v u
  counts : n < max v.rto.toNat 1 * v.nOs → u.rx.rtoRun = true ∧ u.isr.rtof = false ∧ u.rx.rtoOsc < v.nOs ∧
    n = u.rx.rtoCnt * v.nOs + u.rx.rtoOsc
  expired : max v.rto.toNat 1 * v.nOs ≤ n → u.isr.rtof = true

theorem TimeoutGap.tick {n : Nat} (h : TimeoutGap v n u) : TimeoutGap v (n + 1) (u.tick true) := by
  obtain ⟨hrun, hcnt, hosc, hrtof⟩ := tick_timeoutDetect h.hunting.re true
  have hos := h.hunting.nOs_eq
  have hrto : u.rto.toNat = v.rto.toNat := congrArg BitVec.toNat h.hunting.rto
  rw [h.hunting.rxFrame] at hrun hcnt hosc hrtof
  rcases Nat.lt_or_ge n (max v.rto.toNat 1 * v.nOs) with hlt | hge
  case inr =>
    exact ⟨h.hunting.tick, fun hlt => absurd hge (Nat.lt_of_succ_lt hlt).not_ge, fun _ =>
      hrtof.trans (timeoutDetect_rtof (h.expired hge))⟩
  obtain ⟨hrun', hrtof', hosc', hn⟩ := h.counts hlt
  have hcounts : TimeoutCounts u u := ⟨hrun', .inl h.hunting.state⟩
  have hbits : u.rx.rtoCnt + 1 ≤ max v.rto.toNat 1 :=
    Nat.lt_of_mul_lt_mul_right (a := v.nOs) (by omega)
  have hticks := Nat.mul_le_mul_right v.nOs hbits
  rw [Nat.add_one_mul] at hticks
  rcases Nat.lt_or_ge (u.rx.rtoOsc + 1) u.nOs with hinside | hbit
  · rw [timeoutDetect_inside hcounts hinside] at hrun hcnt hosc hrtof
    refine ⟨h.hunting.tick, fun _ => ?_, fun hle => ?_⟩
    · rw [hrun, hcnt, hosc, hrtof]
      exact ⟨hrun', hrtof', hos ▸ hinside, by dsimp only; omega⟩
    · omega
  rcases Nat.lt_or_ge (u.rx.rtoCnt + 1) u.rto.toNat with hmore | hdone
  · rw [timeoutDetect_bitTime hcounts hbit hmore] at hrun hcnt hosc hrtof
    refine ⟨h.hunting.tick, fun _ => ?_, fun hle => ?_⟩
    · rw [hrun, hcnt, hosc, hrtof]
      exact ⟨hrun', hrtof', v.nOs_pos, by dsimp only; rw [Nat.add_one_mul]; omega⟩
    · have hlater : u.rx.rtoCnt + 1 + 1 ≤ max v.rto.toNat 1 := by omega
      have hticks' := Nat.mul_le_mul_right v.nOs hlater
      have hpos := v.nOs_pos
      rw [Nat.add_one_mul, Nat.add_one_mul] at hticks'
      omega
  · rw [timeoutDetect_expired hcounts hbit hdone] at hrun hcnt hosc hrtof
    refine ⟨h.hunting.tick, fun hlt => ?_, fun _ => hrtof⟩
    have hlast : max v.rto.toNat 1 ≤ u.rx.rtoCnt + 1 := by omega
    have hticks' := Nat.mul_le_mul_right v.nOs hlast
    rw [Nat.add_one_mul] at hticks'
    omega

end Usart

open Usart in
/-- Settles O36: while the line is high the receiver hunts, and each detector counts the ticks. -/
theorem usartGapTimes : Obligations.UsartGapTimes := by
  unfold Obligations.UsartGapTimes
  intro s n hue hre hs
  have hrun := runOps_ticks hue (List.replicate n true)
  have hhunting : Hunting s.usart s.usart := ⟨rfl, rfl, rfl, hre, hs⟩
  have hos := s.usart.nOs_pos
  refine ⟨fun harmed hcnt hidle => ⟨_, hrun, ?_⟩, fun hrtoRun hcnt hosc hrtof => ⟨_, hrun, ?_⟩⟩
  · have hlimit : 0 < s.usart.nFrame * s.usart.nOs := Nat.mul_pos (by rw [nFrame]; omega) hos
    have hgap := foldl_tick_high (P := IdleGap s.usart)
      ⟨hhunting, fun _ => ⟨hcnt, harmed, hidle⟩, fun hle => absurd hlimit hle.not_gt⟩ (fun _ _ => IdleGap.tick) n
    rcases Nat.lt_or_ge n (s.usart.nFrame * s.usart.nOs) with hlt | hge
    · exact (hgap.counts hlt).2.2.trans (decide_eq_false hlt.not_ge).symm
    · exact (hgap.idle hge).trans (decide_eq_true hge).symm
  · have hlimit : 0 < max s.usart.rto.toNat 1 * s.usart.nOs := Nat.mul_pos (by omega) hos
    have hgap := foldl_tick_high (P := TimeoutGap s.usart)
      ⟨hhunting, fun _ => ⟨hrtoRun, hrtof, hosc ▸ hos, by rw [hcnt, hosc, Nat.zero_mul]⟩,
        fun hle => absurd hlimit hle.not_gt⟩ (fun _ _ => TimeoutGap.tick) n
    rcases Nat.lt_or_ge n (max s.usart.rto.toNat 1 * s.usart.nOs) with hlt | hge
    · exact (hgap.counts hlt).2.1.trans (decide_eq_false hlt.not_ge).symm
    · exact (hgap.expired hge).trans (decide_eq_true hge).symm

end Sys2Proof.Machine
end

section
/-! PROOF. A frame on the receive line is received (41_usart.md sections 3 and 5). -/

namespace Sys2Proof.Machine

namespace Usart

variable {u v : Usart} {c : BitVec 9} {stop : Bool} {k : Nat}

/-- The level of the receive line at tick `k` of a frame, up to the middle of its stop bit. -/
def lineAt (nOs nData : Nat) (c : BitVec 9) (stop : Bool) (k : Nat) : Bool :=
  if k / nOs ≤ nData then frameLevel nData c (k / nOs) else stop

theorem frameTicks_eq (nOs nData : Nat) (c : BitVec 9) (stop : Bool) : frameTicks nOs nData c stop =
    (List.range (nOs * (1 + nData) + nOs / 2 + 1)).map (lineAt nOs nData c stop) := rfl

section LineAt

variable {nOs nData osc : Nat} (hosc : osc < nOs)
include hosc

theorem lineAt_start : lineAt nOs nData c stop osc = false := by
  rw [lineAt, Nat.div_eq_of_lt hosc, if_pos (Nat.zero_le _)]
  rfl

theorem lineAt_data {bit : Nat} (hbit : bit < nData) :
    lineAt nOs nData c stop (nOs * (1 + bit) + osc) = c.getLsbD bit := by
  have hdiv : (nOs * (1 + bit) + osc) / nOs = 1 + bit := by
    rw [Nat.mul_add_div (Nat.zero_lt_of_lt hosc), Nat.div_eq_of_lt hosc, Nat.add_zero]
  rw [lineAt, hdiv, if_pos (by omega), frameLevel, if_neg (by omega), if_pos (by omega), Nat.add_sub_cancel_left]

theorem lineAt_stop : lineAt nOs nData c stop (nOs * (1 + nData) + osc) = stop := by
  have hdiv : (nOs * (1 + nData) + osc) / nOs = 1 + nData := by
    rw [Nat.mul_add_div (Nat.zero_lt_of_lt hosc), Nat.div_eq_of_lt hosc, Nat.add_zero]
  rw [lineAt, hdiv, if_neg (by omega)]

end LineAt

/-- Where in its frame a receiver is, `k` ticks on from the start edge (R163 to R165). -/
inductive RxPlace (nOs nData : Nat) (x : UsartRx) (k : Nat) : Prop
  | start (hs : x.state = .start) (hosc : x.osc < nOs) (hk : k = x.osc)
  | data (hs : x.state = .data) (hosc : x.osc < nOs) (hbit : x.bit < nData) (hk : k = nOs * (1 + x.bit) + x.osc)
  | stop (hs : x.state = .stop) (hosc : x.osc < nOs / 2) (hk : k = nOs * (1 + nData) + x.osc)

theorem RxPlace.congr {nOs nData : Nat} {x y : UsartRx} (h : RxPlace nOs nData x k) (hs : y.state = x.state)
    (hosc : y.osc = x.osc) (hbit : y.bit = x.bit) : RxPlace nOs nData y k := by
  cases h with
  | start hs' hosc' hk => exact .start (hs.trans hs') (hosc ▸ hosc') (hosc ▸ hk)
  | data hs' hosc' hbit' hk => exact .data (hs.trans hs') (hosc ▸ hosc') (hbit ▸ hbit') (hosc ▸ hbit ▸ hk)
  | stop hs' hosc' hk => exact .stop (hs.trans hs') (hosc ▸ hosc') (hosc ▸ hk)

/-- The data bits whose middle has gone by are in the shift register (R164). -/
def Sampled (nOs nData : Nat) (c rsr : BitVec 9) (k : Nat) : Prop :=
  ∀ j < nData, nOs * (1 + j) + nOs / 2 ≤ k → rsr.getLsbD j = c.getLsbD j

/-- A receiver inside the frame that carries `c`, `k` ticks on from its start edge. -/
structure Receiving (v : Usart) (c : BitVec 9) (k : Nat) (u : Usart) : Prop where
  cr1 : u.cr1 = v.cr1
  cr2 : u.cr2 = v.cr2
  place : RxPlace v.nOs v.nData u.rx k
  sampled : Sampled v.nOs v.nData c u.rx.rsr k
  delivery : SameDelivery v u

theorem Receiving.nOs_eq (h : Receiving v c k u) : u.nOs = v.nOs := congrArg UsartCr1.nOs h.cr1

theorem Receiving.nData_eq (h : Receiving v c k u) : u.nData = v.nData := congrArg UsartCr1.nData h.cr1

/-- Between two middles of a data bit, nothing more is in the shift register. -/
theorem Sampled.succ {nOs nData : Nat} {rsr : BitVec 9} (h : Sampled nOs nData c rsr k)
    (hmid : ∀ j < nData, nOs * (1 + j) + nOs / 2 ≠ k + 1) : Sampled nOs nData c rsr (k + 1) :=
  fun j hj hle => h j hj (by have := hmid j hj; omega)

/-- The middle of a data bit puts it into the shift register (R164). -/
theorem Sampled.setRsr {nOs nData bit : Nat} {rsr : BitVec 9} (h : Sampled nOs nData c rsr k) (hn : nData ≤ 9)
    (hos : nOs = 16 ∨ nOs = 8) (hk : k + 1 = nOs * (1 + bit) + nOs / 2) :
    Sampled nOs nData c (setRsr rsr bit (c.getLsbD bit)) (k + 1) := by
  intro j hj hle
  rw [getLsbD_setRsr _ _ _ (by omega)]
  rcases eq_or_ne j bit with rfl | hne
  · rw [if_pos rfl]
  · rw [if_neg hne]
    refine h j hj ?_
    rcases hos with rfl | rfl <;> omega

/-- The frame machine goes one tick on. -/
theorem Receiving.rxFrame (h : Receiving v c k u) (hk : k + 1 < v.nOs * (1 + v.nData) + v.nOs / 2) :
    RxPlace v.nOs v.nData (u.rxFrame (lineAt v.nOs v.nData c stop (k + 1))).rx (k + 1) ∧
      Sampled v.nOs v.nData c (u.rxFrame (lineAt v.nOs v.nData c stop (k + 1))).rx.rsr (k + 1) := by
  obtain ⟨-, -, hplace, hsampled, -⟩ := id h
  have hdata := h.nData_eq
  have hos := h.nOs_eq
  have hn : v.nData ≤ 9 := by have := v.nData_cases; omega
  have hpos := v.nData_pos
  have hcases := v.nOs_cases
  generalize v.nOs = nOs at *
  cases hplace with
  | start hs hosc hk' =>
    have hsampled' := hsampled.succ fun j _ => by rcases hcases with rfl | rfl <;> omega
    subst hk'
    by_cases hmid : u.rx.osc + 1 = u.nOs / 2
    · rw [lineAt_start (by omega), rxFrame_start_confirmed hs hmid]
      exact ⟨.start hs (by dsimp only; omega) rfl, hsampled'⟩
    by_cases hend : u.rx.osc + 1 = u.nOs
    · rw [rxFrame_start_end hs hend]
      exact ⟨.data rfl (by dsimp only; omega) hpos (by dsimp only; omega), hsampled'⟩
    · rw [rxFrame_start_between hs hmid hend]
      exact ⟨.start hs (by dsimp only; omega) rfl, hsampled'⟩
  | data hs hosc hbit hk' =>
    have hpast (hmid : u.rx.osc + 1 ≠ u.nOs / 2) : Sampled nOs v.nData c u.rx.rsr (k + 1) :=
      hsampled.succ fun j _ => by rcases hcases with rfl | rfl <;> omega
    by_cases hmid : u.rx.osc + 1 = u.nOs / 2
    · have hk1 : k + 1 = nOs * (1 + u.rx.bit) + (u.rx.osc + 1) := by omega
      rw [rxFrame_data_sample hs hmid]
      refine ⟨.data hs (by dsimp only; omega) hbit hk1, ?_⟩
      rw [hk1, lineAt_data (by omega) hbit, ← hk1]
      exact hsampled.setRsr hn hcases (by omega)
    by_cases hend : u.rx.osc + 1 = u.nOs
    · rcases Nat.lt_or_ge (u.rx.bit + 1) u.nData with hnext | hlast
      · rw [rxFrame_data_next hs hend hnext]
        exact ⟨.data hs (by dsimp only; omega) (by dsimp only; omega)
          (by dsimp only; rcases hcases with rfl | rfl <;> omega), hpast hmid⟩
      · rw [rxFrame_data_last hs hend hlast]
        exact ⟨.stop rfl (by dsimp only; omega)
          (by dsimp only; rcases hcases with rfl | rfl <;> omega), hpast hmid⟩
    · rw [rxFrame_data_between hs hmid hend]
      exact ⟨.data hs (by dsimp only; omega) hbit (by dsimp only; omega), hpast hmid⟩
  | stop hs hosc hk' =>
    rw [rxFrame_stop_between hs (by omega)]
    exact ⟨.stop hs (by dsimp only; omega) (by dsimp only; omega),
      hsampled.succ fun j _ => by rcases hcases with rfl | rfl <;> omega⟩

theorem Receiving.not_completed (h : Receiving v c k u) (hk : k + 1 < v.nOs * (1 + v.nData) + v.nOs / 2) :
    ¬u.FrameCompleted := by
  rintro ⟨hs, hosc⟩
  rw [h.nOs_eq] at hosc
  cases h.place with
  | start hs' _ _ => exact nomatch hs.symm.trans hs'
  | data hs' _ _ _ => exact nomatch hs.symm.trans hs'
  | stop _ _ hk' => omega

theorem sameDelivery_trans {a b d : Usart} (h1 : SameDelivery a b) (h2 : SameDelivery b d) : SameDelivery a d := by
  obtain ⟨hrdr, hrxne, hfe, hore⟩ := h1
  obtain ⟨hrdr', hrxne', hfe', hore'⟩ := h2
  exact ⟨hrdr'.trans hrdr, hrxne'.trans hrxne, hfe'.trans hfe, hore'.trans hore⟩

/-- A tick delivers what the frame machine delivers. -/
theorem tick_sameDelivery (hre : UsartCr1.re u.cr1 = true) (h : ¬u.FrameCompleted) (p : Bool) :
    SameDelivery u (u.tick p) := by
  obtain ⟨-, -, -, -, -, hrdr, hrxne, hfe, hore⟩ := tick_frame hre p
  rw [SameDelivery, hrdr, hrxne, hfe, hore]
  exact rxFrame_sameDelivery h p

namespace Receiving

/-- A tick goes one tick on in the frame (R161). -/
theorem tick (h : Receiving v c k u) (hre : UsartCr1.re v.cr1 = true)
    (hk : k + 1 < v.nOs * (1 + v.nData) + v.nOs / 2) :
    Receiving v c (k + 1) (u.tick (lineAt v.nOs v.nData c stop (k + 1))) := by
  have hre' : UsartCr1.re u.cr1 = true := h.cr1 ▸ hre
  obtain ⟨hcr1, hcr2, -⟩ := u.tick_config (lineAt v.nOs v.nData c stop (k + 1))
  obtain ⟨hstate, hrsr, hbit, hosc, -⟩ := tick_frame hre' (lineAt v.nOs v.nData c stop (k + 1))
  obtain ⟨hplace, hsampled⟩ := h.rxFrame (stop := stop) hk
  exact ⟨hcr1.trans h.cr1, hcr2.trans h.cr2, hplace.congr hstate hosc hbit, hrsr ▸ hsampled,
    sameDelivery_trans h.delivery (tick_sameDelivery hre' (h.not_completed hk) _)⟩

/-- The start edge begins a frame (R162). -/
theorem of_edge (hre : UsartCr1.re v.cr1 = true) (hs : v.rx.state = .hunt) (hprev : v.rx.prev = true) :
    Receiving v c 0 (v.tick false) := by
  obtain ⟨hcr1, hcr2, -⟩ := v.tick_config false
  obtain ⟨hstate, -, -, hosc, -⟩ := tick_frame hre false
  rw [rxFrame_hunt_edge hs ⟨hprev, rfl⟩] at hstate hosc
  have hpos := v.nOs_pos
  refine ⟨hcr1, hcr2, .start hstate (hosc ▸ hpos) hosc.symm, fun j _ hle => ?_,
    tick_sameDelivery hre (fun hcomp => nomatch hcomp.1.symm.trans hs) false⟩
  have := Nat.mul_pos hpos (Nat.one_add j ▸ Nat.succ_pos j)
  omega

theorem foldl_tick (hre : UsartCr1.re v.cr1 = true) (hs : v.rx.state = .hunt) (hprev : v.rx.prev = true)
    (hk : k < v.nOs * (1 + v.nData) + v.nOs / 2) :
    Receiving v c k (((List.range (k + 1)).map (lineAt v.nOs v.nData c stop)).foldl Usart.tick v) := by
  induction k with
  | zero =>
    change Receiving v c 0 (v.tick (lineAt v.nOs v.nData c stop 0))
    rw [lineAt_start v.nOs_pos]
    exact of_edge hre hs hprev
  | succ k ih =>
    rw [List.range_succ, List.map_append, List.foldl_append]
    exact (ih (Nat.lt_of_succ_lt hk)).tick hre hk

/-- Before the last tick the receiver is in the stop bit, and the frame is complete at that tick. -/
theorem completed (h : Receiving v c k u) (hk : k + 1 = v.nOs * (1 + v.nData) + v.nOs / 2) : u.FrameCompleted := by
  have hcases := v.nOs_cases
  have hplace := h.place
  rw [FrameCompleted, h.nOs_eq]
  generalize v.nOs = nOs at hcases hplace hk ⊢
  cases hplace with
  | start _ hosc hk' => rcases hcases with rfl | rfl <;> omega
  | data _ hosc hbit hk' => rcases hcases with rfl | rfl <;> omega
  | stop hs hosc hk' => exact ⟨hs, by omega⟩

/-- The shift register holds the character. -/
theorem received (h : Receiving v c k u) (hk : v.nOs * (1 + v.nData) ≤ k) :
    u.received.toNat = c.toNat % 2 ^ v.nData := by
  rw [received_toNat, h.nData_eq]
  refine Nat.eq_of_testBit_eq fun j => ?_
  rw [Nat.testBit_mod_two_pow, Nat.testBit_mod_two_pow]
  by_cases hj : j < v.nData
  · have hpast : v.nOs * (1 + j) + v.nOs / 2 ≤ k := by
      rcases v.nOs_cases with hos | hos <;> rw [hos] at hk ⊢ <;> omega
    exact congrArg _ (h.sampled j hj hpast)
  · rw [decide_eq_false hj, Bool.false_and, Bool.false_and]

end Receiving

end Usart

open Usart in
/-- Settles O37: a tick after the start edge the receiver is that far in its frame, each data bit is in the shift
register once its middle has gone by, and the middle of the stop bit delivers it. -/
theorem receiveDeliversTheFrame : Obligations.ReceiveDeliversTheFrame := by
  unfold Obligations.ReceiveDeliversTheFrame
  intro s c stop hue hre _ hs hprev
  have hpos := s.usart.nOs_pos
  have hhalf : 0 < s.usart.nOs / 2 := by rcases s.usart.nOs_cases with hos | hos <;> rw [hos] <;> decide
  obtain ⟨k, hk⟩ : ∃ k, s.usart.nOs * (1 + s.usart.nData) + s.usart.nOs / 2 = k + 1 :=
    Nat.exists_eq_succ_of_ne_zero (by omega)
  have hlast : lineAt s.usart.nOs s.usart.nData c stop (k + 1) = stop :=
    hk ▸ lineAt_stop (Nat.div_lt_self hpos (by decide))
  have hinside := Receiving.foldl_tick (c := c) (stop := stop) hre hs hprev (k := k) (by omega)
  refine ⟨_, runOps_ticks hue _, ?_⟩
  rw [frameTicks_eq, hk, List.range_succ, List.map_append, List.foldl_append, List.map_singleton, List.foldl_cons,
    List.foldl_nil, hlast]
  dsimp only
  generalize ((List.range (k + 1)).map (lineAt s.usart.nOs s.usart.nData c stop)).foldl Usart.tick s.usart = u at *
  have hcomp := hinside.completed hk.symm
  obtain ⟨hrdr₀, hrxne₀, hfe₀, hore₀⟩ := hinside.delivery
  obtain ⟨hstate, -, -, -, -, hrdr, hrxne, hfe, hore⟩ := tick_frame (hinside.cr1 ▸ hre) stop
  rw [hstate, hrdr, hrxne, hfe, hore, rxFrame_stop_completed hcomp.1 hcomp.2]
  cases hfull : u.isr.rxne
  · rw [deliver_character hfull]
    refine ⟨rfl, rfl, fun _ => ⟨hinside.received (by omega), hore₀, congrArg (· || !stop) hfe₀⟩, fun h => ?_⟩
    exact nomatch (hfull.symm.trans hrxne₀).trans h
  · rw [deliver_overrun hfull]
    exact ⟨rfl, hfull, fun h => (nomatch (hfull.symm.trans hrxne₀).trans h),
      fun _ => ⟨hrdr₀, rfl, hfe₀⟩⟩

end Sys2Proof.Machine
end

section
/-! PROOF. How long a transmitter takes to send what it has (41_usart.md section 7, 70_reset_and_hazards.md
section 4): the bit boundaries, and the ticks, until transmission is complete. -/

namespace Sys2Proof.Machine

namespace Usart

variable {u : Usart}

/-! ### Bit boundaries to go -/

/-- The bit boundaries a waiting character needs once it is loaded. -/
def waitingLeft (u : Usart) : Nat := if u.isr.txe then 0 else u.nFrame

/-- The bit boundaries until transmission is complete, when nothing more is written: those of the frame under way,
and those of the character that waits. -/
def txLeft (u : Usart) : Nat :=
  match u.tx.state with
  | .idle => if u.isr.txe then 0 else 1 + u.nFrame
  | .start => u.nFrame + u.waitingLeft
  | .data => u.nData - u.tx.bit + u.nStop + u.waitingLeft
  | .stop => u.nStop - u.tx.stop + u.waitingLeft

theorem txLeft_idle (hs : u.tx.state = .idle) : u.txLeft = if u.isr.txe then 0 else 1 + u.nFrame := by
  rw [txLeft, hs]

theorem txLeft_start (hs : u.tx.state = .start) : u.txLeft = u.nFrame + u.waitingLeft := by rw [txLeft, hs]

theorem txLeft_data (hs : u.tx.state = .data) : u.txLeft = u.nData - u.tx.bit + u.nStop + u.waitingLeft := by
  rw [txLeft, hs]

theorem txLeft_stop (hs : u.tx.state = .stop) : u.txLeft = u.nStop - u.tx.stop + u.waitingLeft := by rw [txLeft, hs]

theorem waitingLeft_empty (h : u.isr.txe = true) : u.waitingLeft = 0 := if_pos h

theorem waitingLeft_full (h : u.isr.txe = false) : u.waitingLeft = u.nFrame := if_neg (Bool.eq_false_iff.1 h)

/-- The counters of a transmitter are inside its frame (R29). -/
structure TxCounts (u : Usart) : Prop where
  osc : u.tx.osc < u.nOs
  bit : u.tx.bit < u.nData
  stop : u.tx.stop < u.nStop

theorem txCounts_of_inv (h : UsartInv u) : u.TxCounts := ⟨h.txOsc, h.txBit, h.txStop⟩

/-- A character waits exactly while more than a frame is to go. -/
theorem txe_of_txLeft_le (h : u.TxCounts) (hle : u.txLeft ≤ u.nFrame) : u.isr.txe = true := by
  rcases Bool.eq_false_or_eq_true u.isr.txe with htxe | htxe
  · exact htxe
  obtain ⟨-, hbit, hstop⟩ := h
  cases hs : u.tx.state with
  | idle => rw [txLeft_idle hs, if_neg (Bool.eq_false_iff.1 htxe)] at hle; omega
  | start => rw [txLeft_start hs, waitingLeft_full htxe, nFrame] at hle; omega
  | data => rw [txLeft_data hs, waitingLeft_full htxe] at hle; omega
  | stop => rw [txLeft_stop hs, waitingLeft_full htxe] at hle; omega

theorem txLeft_le (u : Usart) : u.txLeft ≤ 2 * u.nFrame := by
  have hframe : u.nFrame = 1 + u.nData + u.nStop := rfl
  have hwait : u.waitingLeft ≤ u.nFrame := by
    rw [waitingLeft]
    split <;> omega
  cases hs : u.tx.state with
  | idle => rw [txLeft_idle hs]; split <;> omega
  | start => rw [txLeft_start hs]; omega
  | data => rw [txLeft_data hs]; omega
  | stop => rw [txLeft_stop hs]; omega

/-- A bit boundary is one less to go (R156 to R159). -/
theorem txStep_boundary_txLeft (h : u.TxCounts) (hb : u.nOs ≤ u.tx.osc + 1) : u.txStep.txLeft = u.txLeft - 1 := by
  obtain ⟨-, hbit, hstop⟩ := h
  have hframe : u.nFrame = 1 + u.nData + u.nStop := rfl
  have hstops := u.nStop_pos
  have hloaded (hload : u.tx.state = .idle ∨ u.tx.state = .stop ∧ u.nStop ≤ u.tx.stop + 1)
      (htxe : u.isr.txe = false) : u.txStep.txLeft = u.nFrame := by
    rw [txStep_load hb hload htxe]
    rfl
  cases hs : u.tx.state with
  | idle =>
    rw [txLeft_idle hs]
    cases htxe : u.isr.txe
    · rw [hloaded (.inl hs) htxe]
      exact (Nat.add_sub_cancel_left 1 _).symm
    · rw [txStep_idle_quiet hb hs htxe]
      exact (txLeft_idle (by exact hs)).trans (if_pos htxe)
  | start =>
    have hnew : u.txStep.txLeft = u.nData - 0 + u.nStop + u.waitingLeft := by rw [txStep_start hb hs]; rfl
    rw [hnew, txLeft_start hs]
    omega
  | data =>
    rw [txLeft_data hs]
    rcases Nat.lt_or_ge (u.tx.bit + 1) u.nData with hnext | hlast
    · have hnew : u.txStep.txLeft = u.nData - (u.tx.bit + 1) + u.nStop + u.waitingLeft := by
        rw [txStep_data_next hb hs hnext]
        exact txLeft_data (by exact hs)
      omega
    · have hnew : u.txStep.txLeft = u.nStop - 0 + u.waitingLeft := by rw [txStep_data_last hb hs hlast]; rfl
      omega
  | stop =>
    rw [txLeft_stop hs]
    rcases Nat.lt_or_ge (u.tx.stop + 1) u.nStop with hnext | hlast
    · have hnew : u.txStep.txLeft = u.nStop - (u.tx.stop + 1) + u.waitingLeft := by
        rw [txStep_stop_next hb hs hnext]
        exact txLeft_stop (by exact hs)
      omega
    cases htxe : u.isr.txe
    · rw [hloaded (.inr ⟨hs, hlast⟩) htxe, waitingLeft_full htxe]
      omega
    · have hnew : u.txStep.txLeft = 0 := by rw [txStep_stop_last hb hs hlast htxe]; rfl
      rw [hnew, waitingLeft_empty htxe]
      omega

theorem txLeft_eq_zero_iff (h : u.TxCounts) : u.txLeft = 0 ↔ u.tx.state = .idle ∧ u.isr.txe = true := by
  obtain ⟨-, hbit, hstop⟩ := h
  cases hs : u.tx.state with
  | idle =>
    rw [txLeft_idle hs]
    cases u.isr.txe
    · exact iff_of_false (Nat.ne_of_gt (Nat.add_pos_left Nat.one_pos _)) nofun
    · exact iff_of_true rfl ⟨rfl, rfl⟩
  | start => exact iff_of_false (by rw [txLeft_start hs, nFrame]; omega) nofun
  | data => exact iff_of_false (by rw [txLeft_data hs]; omega) nofun
  | stop => exact iff_of_false (by rw [txLeft_stop hs]; omega) nofun

theorem txLeft_eq_one (h : u.TxCounts) (hone : u.txLeft = 1) :
    u.tx.state = .stop ∧ u.nStop ≤ u.tx.stop + 1 ∧ u.isr.txe = true := by
  obtain ⟨-, hbit, hstop⟩ := id h
  have hframe : u.nFrame = 1 + u.nData + u.nStop := rfl
  have hstops := u.nStop_pos
  have htxe := txe_of_txLeft_le h (by omega)
  have hwait := waitingLeft_empty htxe
  cases hs : u.tx.state with
  | idle => rw [txLeft_idle hs, if_pos htxe] at hone; exact nomatch hone
  | start => rw [txLeft_start hs] at hone; omega
  | data => rw [txLeft_data hs] at hone; omega
  | stop => rw [txLeft_stop hs] at hone; exact ⟨rfl, by omega, htxe⟩

/-- With nothing to go, transmission is complete. -/
def CompleteAtEnd (u : Usart) : Prop := u.txLeft = 0 → u.isr.tc = true

/-- The end of the last frame sets TC, and nothing of the transmitter clears it (R159). -/
theorem CompleteAtEnd.txStep (hc : u.CompleteAtEnd) (h : u.TxCounts) : u.txStep.CompleteAtEnd := by
  intro hleft
  rcases Nat.lt_or_ge (u.tx.osc + 1) u.nOs with hosc | hb
  · rw [txStep_between hosc] at hleft ⊢
    exact hc hleft
  rw [txStep_boundary_txLeft h hb] at hleft
  rcases Nat.eq_zero_or_pos u.txLeft with hzero | hpos
  · obtain ⟨hs, htxe⟩ := (txLeft_eq_zero_iff h).1 hzero
    rw [txStep_idle_quiet hb hs htxe]
    exact hc hzero
  · obtain ⟨hs, hstop, htxe⟩ := txLeft_eq_one h (by omega)
    rw [txStep_stop_last hb hs hstop htxe]

/-! ### Ticks to go -/

/-- The ticks until transmission is complete, when nothing more is written. -/
def ticksLeft (u : Usart) : Nat := u.txLeft * u.nOs - u.tx.osc

/-- The action of a boundary does not count ticks. -/
theorem txBoundary_osc (u : Usart) : u.txBoundary.tx.osc = u.tx.osc := by
  rw [txBoundary]
  cases u.tx.state with
  | idle => rw [txIdle]; split_ifs <;> rfl
  | start => rfl
  | data => rw [txData]; split_ifs <;> rfl
  | stop => rw [txStop]; split_ifs <;> rfl

theorem txStep_config (u : Usart) : u.txStep.cr1 = u.cr1 ∧ u.txStep.cr2 = u.cr2 :=
  have h := u.txStep_frame
  ⟨(congrArg Usart.cr1 h).trans rfl, (congrArg Usart.cr2 h).trans rfl⟩

theorem txStep_ticksLeft (h : u.TxCounts) : u.txStep.ticksLeft = u.ticksLeft - 1 := by
  rcases Nat.lt_or_ge (u.tx.osc + 1) u.nOs with hosc | hb
  · rw [txStep_between hosc, ticksLeft, ticksLeft, Nat.sub_sub]
    rfl
  · have hosc : u.txStep.tx.osc = 0 := by rw [txStep_boundary hb, txBoundary_osc]
    have hos : u.txStep.nOs = u.nOs := congrArg UsartCr1.nOs u.txStep_config.1
    rw [ticksLeft, ticksLeft, txStep_boundary_txLeft h hb, hos, hosc, Nat.sub_one_mul]
    have := h.osc
    omega

theorem ticksLeft_eq_zero_iff (h : u.TxCounts) : u.ticksLeft = 0 ↔ u.txLeft = 0 := by
  have hosc := h.osc
  rw [ticksLeft]
  constructor
  · intro hz
    by_contra hne
    have := Nat.mul_le_mul_right u.nOs (Nat.one_le_iff_ne_zero.2 hne)
    omega
  · intro hz
    rw [hz, Nat.zero_mul, Nat.zero_sub]

/-- The ticks to go are told by the transmitter, TXE and the configuration. -/
theorem ticksLeft_congr {v : Usart} (hcr1 : v.cr1 = u.cr1) (hcr2 : v.cr2 = u.cr2) (htx : v.tx = u.tx)
    (htxe : v.isr.txe = u.isr.txe) : v.txLeft = u.txLeft ∧ v.ticksLeft = u.ticksLeft := by
  have hleft : v.txLeft = u.txLeft := by
    rw [txLeft, txLeft, waitingLeft, waitingLeft, nFrame, nFrame, nData, nData, nStop, nStop, hcr1, hcr2, htx, htxe]
  exact ⟨hleft, by rw [ticksLeft, ticksLeft, hleft, nOs, nOs, hcr1, htx]⟩

/-- A running transmitter that is not torn, and tells the end of transmission. -/
structure Draining (u : Usart) : Prop where
  inv : UsartInv u
  ue : UsartCr1.ue u.cr1 = true
  te : UsartCr1.te u.cr1 = true
  whole : u.torn = false
  complete : u.CompleteAtEnd

theorem Draining.of_waiting (hinv : UsartInv u) (hue : UsartCr1.ue u.cr1 = true) (hte : UsartCr1.te u.cr1 = true)
    (hwhole : u.torn = false) (htxe : u.isr.txe = false) : u.Draining :=
  ⟨hinv, hue, hte, hwhole, fun hzero =>
    nomatch htxe.symm.trans ((txLeft_eq_zero_iff (txCounts_of_inv hinv)).1 hzero).2⟩

/-- Every tick is one less to go (R155). -/
theorem Draining.tick (h : u.Draining) (p : Bool) : (u.tick p).Draining ∧ (u.tick p).ticksLeft = u.ticksLeft - 1 := by
  obtain ⟨hinv, hue, hte, hwhole, hcomplete⟩ := h
  have hcounts := txCounts_of_inv hinv
  obtain ⟨hcr1, hcr2, -, -, -, -, -, -, htorn⟩ := u.tick_config p
  obtain ⟨htx, -, htxe, htc⟩ := tick_txIs_txHalf u p
  rw [txHalf_on hwhole hte] at htx htxe htc
  obtain ⟨hcr1', hcr2'⟩ := u.txStep_config
  obtain ⟨hleft, hticks⟩ := ticksLeft_congr (hcr1.trans hcr1'.symm) (hcr2.trans hcr2'.symm) htx htxe
  refine ⟨⟨tick_keeps_inv hinv hue p, hcr1.symm ▸ hue, hcr1.symm ▸ hte, htorn.trans hwhole, fun hzero => ?_⟩,
    hticks.trans (txStep_ticksLeft hcounts)⟩
  exact htc.trans (hcomplete.txStep hcounts (hleft.symm.trans hzero))

theorem Draining.foldl_tick (h : u.Draining) (levels : List Bool) : (levels.foldl Usart.tick u).Draining ∧
    (levels.foldl Usart.tick u).ticksLeft = u.ticksLeft - levels.length ∧
    (levels.foldl Usart.tick u).nOs = u.nOs ∧ (levels.foldl Usart.tick u).nFrame = u.nFrame := by
  induction levels generalizing u with
  | nil => exact ⟨h, rfl, rfl, rfl⟩
  | cons p ps ih =>
    obtain ⟨hdraining, hticks⟩ := h.tick p
    obtain ⟨hdraining', hticks', hos, hframe⟩ := ih hdraining
    obtain ⟨hcr1, hcr2, -⟩ := u.tick_config p
    have hframe' : (u.tick p).nFrame = u.nFrame := by rw [nFrame, nFrame, nData, nData, nStop, nStop, hcr1, hcr2]
    refine ⟨hdraining', ?_, hos.trans (congrArg UsartCr1.nOs hcr1), hframe.trans hframe'⟩
    rw [List.foldl_cons, hticks', hticks, List.length_cons]
    omega

theorem ticksLeft_le (u : Usart) : u.ticksLeft ≤ 2 * u.nFrame * u.nOs :=
  (Nat.sub_le _ _).trans (Nat.mul_le_mul_right _ u.txLeft_le)

/-- A character has left TDR once less than a frame is to go. -/
theorem txe_of_ticksLeft_lt (h : u.TxCounts) (hlt : u.ticksLeft + u.nOs ≤ u.nFrame * u.nOs) : u.isr.txe = true := by
  refine txe_of_txLeft_le h (Nat.le_of_mul_le_mul_right (c := u.nOs) ?_ u.nOs_pos)
  have hosc := h.osc
  rw [ticksLeft] at hlt
  omega

end Usart

open Usart in
/-- Settles O33: at most two frames are to go, and every tick is one less; TXE is 1 once no more than one is, and TC
once none is. -/
theorem transmitProgress : Obligations.TransmitProgress := by
  unfold Obligations.TransmitProgress
  intro s levels hue hte hinv hwhole htxe
  have hrun := runOps_ticks hue levels
  obtain ⟨hdraining, hticks, hos, hframe⟩ := (Draining.of_waiting hinv hue hte hwhole htxe).foldl_tick levels
  have hcounts := txCounts_of_inv hdraining.inv
  have hmost := s.usart.ticksLeft_le
  refine ⟨fun hlength => ⟨_, hrun, txe_of_ticksLeft_lt hcounts ?_⟩,
    fun hlength => ⟨_, hrun, hdraining.complete ((ticksLeft_eq_zero_iff hcounts).1 ?_)⟩⟩
  · rw [Nat.add_one_mul] at hlength
    rw [Nat.two_mul, Nat.add_mul] at hmost
    have hone : s.usart.nOs ≤ s.usart.nFrame * s.usart.nOs := Nat.le_mul_of_pos_left _ (by rw [nFrame]; omega)
    rw [hticks, hos, hframe]
    omega
  · rw [Nat.add_one_mul] at hlength
    omega

end Sys2Proof.Machine
end

section
/-! PROOF. The refused command words (30_encoding.md R106): a command word that no row covers is refused for the class
`classify` finds it in; one that an NVIC row covers has an index past the last. -/

namespace Sys2Proof

open Machine (ParamsValid)

variable {p : Params} {l : Layout} {we : Bool} {sz : Width} {blk : Blk} {off : BitVec 12} {rest : List Word}

/-! ### Which command words the rows cover -/

/-- The accesses of the register rows: those whose width the register admits (R74), but no write of a read-only
one. -/
theorem registerAccesses_iff : ∀ r ∈ Reg.all, ∀ (we : Bool), ∀ sz ∈ [Width.w8, .w16, .w32],
    ((we, sz, r) ∈ registerAccesses ↔ ¬(we = true ∧ r.readOnly = true) ∧ szBytes sz.code ∈ r.widths) := by decide

theorem mem_registerAccesses_iff {r : Reg} :
    (we, sz, r) ∈ registerAccesses ↔ ¬(we = true ∧ r.readOnly = true) ∧ szBytes sz.code ∈ r.widths :=
  registerAccesses_iff r r.mem_all we sz (by cases sz <;> decide)

/-- The access of an NVIC row, its index past the last one or not. -/
def NvicAccess (row : BusRow) (sz : Width) (blk : Blk) (off : BitVec 12) (cmd : Word) : Prop :=
  (blk = .nvicIser ∧ sz = .w32 ∧ ∃ r, off = iserOff r ∧ ∀ p, (row.build cmd 0#32).wf p = decide (r.toNat < p.nIser)) ∨
    (blk = .nvicIpr ∧ sz = .w8 ∧ ∃ n, off = iprOff n ∧ ∀ p, (row.build cmd 0#32).wf p = decide (n.toNat < p.nLines))

theorem command_inj {we' : Bool} {sz' : Width} {blk' : Blk} {off' : BitVec 12}
    (h : command we sz blk off = command we' sz' blk' off') : we = we' ∧ sz = sz' ∧ blk = blk' ∧ off = off' :=
  ⟨by simpa using congrArg cmdWe h, Width.code_injective (by simpa using congrArg cmdSz h),
    Blk.code_injective (by simpa using congrArg cmdBlk h), by simpa using congrArg cmdOff h⟩

theorem registerAccess_of_covers {row : BusRow} (hrow : row ∈ registerRows l)
    (h : row.covers (command we sz blk off) = true) :
    ∃ r : Reg, r.blk = blk ∧ (l.of r).off = off ∧ (we, sz, r) ∈ registerAccesses := by
  have hpattern : row.pattern ∈ registerAccesses.map (registerCommand l) :=
    registerRows_pattern l ▸ List.mem_map_of_mem hrow
  obtain ⟨⟨we', sz', r⟩, hmem, hr⟩ := List.mem_map.1 hpattern
  rw [← eq_pattern_of_registerRow hrow h] at hr
  obtain ⟨rfl, rfl, hblk, hoff⟩ := command_inj hr
  exact ⟨r, hblk, hoff, hmem⟩

theorem nvicAccess_of_covers : ∀ row ∈ nvicRows, row.covers (command we sz blk off) = true →
    NvicAccess row sz blk off (command we sz blk off) := by
  simp only [nvicRows, List.forall_mem_cons]
  have iser {we' : Bool} {build : Word → Word → Instr}
      (hcovers : BusRow.covers ⟨0xFFFFFFC3#32, command we' .w32 .nvicIser 0#12, build⟩
        (command we sz blk off) = true) :
      blk = .nvicIser ∧ sz = .w32 ∧ off = iserOff (iserField (command we sz blk off)) := by
    obtain ⟨-, hsz, hblk, hoff⟩ := command_inj (eq_command_of_iserRow hcovers)
    exact ⟨hblk, hsz, hoff⟩
  have ipr {we' : Bool} {build : Word → Word → Instr}
      (hcovers : BusRow.covers ⟨0xFFFFFE00#32, command we' .w8 .nvicIpr 0#12, build⟩
        (command we sz blk off) = true) :
      blk = .nvicIpr ∧ sz = .w8 ∧ off = iprOff (iprField (command we sz blk off)) := by
    obtain ⟨-, hsz, hblk, hoff⟩ := command_inj (eq_command_of_iprRow hcovers)
    exact ⟨hblk, hsz, hoff⟩
  refine ⟨fun h => .inl ?_, fun h => .inl ?_, fun h => .inr ?_, fun h => .inr ?_, nofun⟩
  · obtain ⟨hblk, hsz, hoff⟩ := iser (we' := false) h
    exact ⟨hblk, hsz, _, hoff, fun _ => rfl⟩
  · obtain ⟨hblk, hsz, hoff⟩ := iser (we' := true) h
    exact ⟨hblk, hsz, _, hoff, fun _ => rfl⟩
  · obtain ⟨hblk, hsz, hoff⟩ := ipr (we' := false) h
    exact ⟨hblk, hsz, _, hoff, fun _ => rfl⟩
  · obtain ⟨hblk, hsz, hoff⟩ := ipr (we' := true) h
    exact ⟨hblk, hsz, _, hoff, fun _ => rfl⟩

/-- A command word that accesses no register at a width it admits, and no NVIC register either, is refused for the
class it is in. -/
theorem decodeBus_of_noAccess
    (hreg : ∀ r : Reg, r.blk = blk → (p.layout.of r).off = off → (we, sz, r) ∉ registerAccesses)
    (hiser : blk = .nvicIser → sz = .w32 → ∀ r, off ≠ iserOff r)
    (hipr : blk = .nvicIpr → sz = .w8 → ∀ n, off ≠ iprOff n) :
    decodeBus p (command we sz blk off :: rest) = .error (classify p (command we sz blk off)) := by
  refine decodeBus_of_uncovered (commandForm_command we sz blk off) fun row hrow => ?_
  by_contra hcovers
  rw [Bool.not_eq_false] at hcovers
  rw [busRows_eq, List.mem_append] at hrow
  rcases hrow with hrow | hrow
  · obtain ⟨r, hblk, hoff, hmem⟩ := registerAccess_of_covers hrow hcovers
    exact hreg r hblk hoff hmem
  · rcases nvicAccess_of_covers row hrow hcovers with ⟨hblk, hsz, r, hoff, -⟩ | ⟨hblk, hsz, n, hoff, -⟩
    · exact hiser hblk hsz r hoff
    · exact hipr hblk hsz n hoff

/-! ### The class of a command word -/

/-- The first offset past what the encoding can name in a window (R102). -/
def Blk.limit (blk : Blk) : Nat := if blk = .nvicIser then 0x40 else if blk = .nvicIpr then 0x200 else 0x400

theorem windowLimits_code (p : Params) (blk : Blk) : windowLimits p blk.code.toNat = (blk.size p, blk.limit) := by
  cases blk <;> rfl

theorem Blk.size_le_limit (hp : ParamsValid p) (blk : Blk) : blk.size p ≤ blk.limit := by
  have hlines := hp.wholeRegisters
  have hiser := hp.iserField
  cases blk
  case nvicIser => exact show 4 * p.nIser ≤ 0x40 by omega
  case nvicIpr => exact show p.nLines ≤ 0x200 by omega
  all_goals exact le_refl 0x400

theorem Blk.code_lt (blk : Blk) : ¬5 ≤ blk.code.toNat := by cases blk <;> decide

theorem classify_outside (h : blk.limit ≤ off.toNat) : classify p (command we sz blk off) = .outsideBlock := by
  simp only [classify, cmdBlk_command, cmdOff_command, windowLimits_code, if_neg blk.code_lt, if_pos h]

theorem classify_index (h : blk.size p ≤ off.toNat) (hlimit : off.toNat < blk.limit) :
    classify p (command we sz blk off) = .indexOutOfRange := by
  simp only [classify, cmdBlk_command, cmdOff_command, windowLimits_code, if_neg blk.code_lt,
    if_neg (Nat.not_le.2 hlimit), if_pos h]

section Inside

variable (hp : ParamsValid p) (hin : off.toNat < blk.size p)
include hp hin

theorem classify_register {reg : RegInfo} (h : regAt p blk.code.toNat off.toNat = some reg) :
    classify p (command we sz blk off) =
      if we && reg.readOnly then .writeToReadOnly
      else if szBytes sz.code ∉ reg.widths then .width
      else .unmappedOffset := by
  have hlimit : off.toNat < blk.limit := hin.trans_le (blk.size_le_limit hp)
  simp only [classify, cmdBlk_command, cmdOff_command, cmdSz_command, cmdWe_command, windowLimits_code,
    if_neg blk.code_lt, if_neg (Nat.not_le.2 hlimit), if_neg (Nat.not_le.2 hin), h]

theorem classify_noRegister (h : regAt p blk.code.toNat off.toNat = none) :
    classify p (command we sz blk off) =
      if off.toNat % szBytes sz.code ≠ 0 then .misaligned else .unmappedOffset := by
  have hlimit : off.toNat < blk.limit := hin.trans_le (blk.size_le_limit hp)
  simp only [classify, cmdBlk_command, cmdOff_command, cmdSz_command, windowLimits_code, if_neg blk.code_lt,
    if_neg (Nat.not_le.2 hlimit), if_neg (Nat.not_le.2 hin), h]

end Inside

/-! ### The register at an offset -/

theorem regAt_peripheral {b : Nat} (hiser : b ≠ 3) (hipr : b ≠ 4) (o : Nat) : regAt p b o =
    (Reg.all.find? fun r => r.blk.code.toNat == b && (p.layout.of r).off.toNat == o).map fun r =>
      ⟨r.widths, r.readOnly⟩ := by
  rw [regAt, if_neg hiser, if_neg hipr]

theorem regAt_iser (o : Nat) : regAt p Blk.nvicIser.code.toNat o =
    if o < 4 * p.nIser ∧ o % 4 = 0 then some ⟨[4], false⟩ else none := rfl

theorem regAt_ipr (o : Nat) : regAt p Blk.nvicIpr.code.toNat o =
    if o < p.nLines then some ⟨[1], false⟩ else none := rfl

theorem Reg.blk_peripheral (r : Reg) : r.blk ∈ [Blk.usart, .i2c, .spi] := by cases r <;> decide

theorem Blk.code_peripheral : ∀ blk ∈ [Blk.usart, .i2c, .spi], blk.code.toNat ≠ 3 ∧ blk.code.toNat ≠ 4 := by decide

theorem Blk.size_peripheral : ∀ blk ∈ [Blk.usart, .i2c, .spi], blk.size p = 0x400 := by
  simp [Blk.size]

theorem regAt_register (hl : Machine.LayoutValid p.layout) (r : Reg) :
    regAt p r.blk.code.toNat (p.layout.of r).off.toNat = some ⟨r.widths, r.readOnly⟩ := by
  obtain ⟨hiser, hipr⟩ := Blk.code_peripheral _ r.blk_peripheral
  rw [regAt_peripheral hiser hipr]
  cases hfound : Reg.all.find? fun q =>
      q.blk.code.toNat == r.blk.code.toNat && (p.layout.of q).off.toNat == (p.layout.of r).off.toNat with
  | none => exact absurd (List.find?_eq_none.1 hfound r r.mem_all) (by simp)
  | some q =>
    have hq := List.find?_some hfound
    simp only [Bool.and_eq_true, beq_iff_eq] at hq
    obtain ⟨hblk, hoff⟩ := hq
    obtain rfl := hl.apart q r (Blk.code_injective (BitVec.eq_of_toNat_eq hblk)) (BitVec.eq_of_toNat_eq hoff)
    rfl

theorem regAt_eq_none (hblk : blk ∈ [Blk.usart, .i2c, .spi])
    (h : ∀ r : Reg, r.blk = blk → (p.layout.of r).off ≠ off) : regAt p blk.code.toNat off.toNat = none := by
  obtain ⟨hiser, hipr⟩ := Blk.code_peripheral _ hblk
  rw [regAt_peripheral hiser hipr, Option.map_eq_none_iff, List.find?_eq_none]
  intro r _ hr
  simp only [Bool.and_eq_true, beq_iff_eq] at hr
  obtain ⟨hcode, hoff⟩ := hr
  exact h r (Blk.code_injective (BitVec.eq_of_toNat_eq hcode)) (BitVec.eq_of_toNat_eq hoff)

theorem toNat_iserOff : ∀ r : BitVec 4, (iserOff r).toNat = 4 * r.toNat := by decide

theorem toNat_iprOff (n : BitVec 9) : (iprOff n).toNat = n.toNat := 
  (BitVec.toNat_append 0#3 n).trans (by simp)

theorem szBytes_dvd_four (sz : Width) : szBytes sz.code ∣ 4 := by cases sz <;> decide

/-! ### The classes of R106 -/

section Classes

variable (hp : ParamsValid p)
include hp

/-- A register refuses a write when it is read only, and a width it does not admit. -/
theorem decodeBus_register_refused (r : Reg) (h : (we, sz, r) ∉ registerAccesses) :
    decodeBus p (command we sz r.blk (p.layout.of r).off :: rest) =
      .error (if we && r.readOnly then .writeToReadOnly else .width) := by
  obtain ⟨hiser, hipr⟩ := r.blk_code_ne_nvic
  rw [decodeBus_of_noAccess
    (fun q hblk hoff => by rwa [hp.layout.apart q r hblk hoff])
    (fun hblk => absurd (congrArg Blk.code hblk) hiser) (fun hblk => absurd (congrArg Blk.code hblk) hipr),
    classify_register hp ((hp.layout.inWindow r).trans_eq (Blk.size_peripheral _ r.blk_peripheral).symm)
      (regAt_register hp.layout r)]
  rw [mem_registerAccesses_iff] at h
  by_cases hreadOnly : we = true ∧ r.readOnly = true
  · simp [hreadOnly]
  · have hwidth : szBytes sz.code ∉ r.widths := fun hmem => h ⟨hreadOnly, hmem⟩
    simp [hwidth]

theorem decodeBus_iser_width {r : BitVec 4} (hr : r.toNat < p.nIser) (hsz : sz ≠ .w32) :
    decodeBus p (command we sz .nvicIser (iserOff r) :: rest) = .error .width := by
  have hoff := toNat_iserOff r
  have hdefined : regAt p Blk.nvicIser.code.toNat (iserOff r).toNat = some ⟨[4], false⟩ := by
    rw [regAt_iser, if_pos ⟨by omega, by omega⟩]
  have hwidth : szBytes sz.code ∉ [4] := by cases sz with
    | w8 => decide
    | w16 => decide
    | w32 => exact absurd rfl hsz
  rw [decodeBus_of_noAccess (fun q hblk => absurd (congrArg Blk.code hblk) q.blk_code_ne_nvic.1)
    (fun _ h => absurd h hsz) nofun, classify_register hp (show _ < 4 * p.nIser by omega) hdefined]
  simp only [Bool.and_false, Bool.false_eq_true, if_false, hwidth, not_false_eq_true, if_true]

theorem decodeBus_ipr_width {n : BitVec 9} (hn : n.toNat < p.nLines) (hsz : sz ≠ .w8) :
    decodeBus p (command we sz .nvicIpr (iprOff n) :: rest) = .error .width := by
  rw [← toNat_iprOff n] at hn
  have hdefined : regAt p Blk.nvicIpr.code.toNat (iprOff n).toNat = some ⟨[1], false⟩ := by
    rw [regAt_ipr, if_pos hn]
  have hwidth : szBytes sz.code ∉ [1] := by cases sz with
    | w8 => exact absurd rfl hsz
    | w16 => decide
    | w32 => decide
  rw [decodeBus_of_noAccess (fun q hblk => absurd (congrArg Blk.code hblk) q.blk_code_ne_nvic.2)
    nofun (fun _ h => absurd h hsz), classify_register hp hn hdefined]
  simp only [Bool.and_false, Bool.false_eq_true, if_false, hwidth, not_false_eq_true, if_true]

/-- Where an offset is aligned neither to the access nor to a word, no register of a window but IPR is. -/
theorem decodeBus_misaligned (hblk : blk ≠ .nvicIpr) (hin : off.toNat < blk.size p)
    (h : off.toNat % szBytes sz.code ≠ 0) :
    decodeBus p (command we sz blk off :: rest) = .error .misaligned := by
  have hword : off.toNat % 4 ≠ 0 := fun hzero => h (Nat.mod_eq_zero_of_dvd
    ((szBytes_dvd_four sz).trans (Nat.dvd_of_mod_eq_zero hzero)))
  have hnoReg (r : Reg) : (p.layout.of r).off ≠ off := fun hoff => hword (hoff ▸ hp.layout.aligned r)
  have hnone : regAt p blk.code.toNat off.toNat = none := by
    cases blk with
    | nvicIser => rw [regAt_iser, if_neg fun hmapped => hword hmapped.2]
    | nvicIpr => exact absurd rfl hblk
    | usart => exact regAt_eq_none (by decide) fun r _ => hnoReg r
    | i2c => exact regAt_eq_none (by decide) fun r _ => hnoReg r
    | spi => exact regAt_eq_none (by decide) fun r _ => hnoReg r
  rw [decodeBus_of_noAccess (fun r _ hoff => absurd hoff (hnoReg r))
    (fun _ _ r hoff => hword (by rw [hoff, toNat_iserOff, Nat.mul_mod_right])) fun heq => absurd heq hblk,
    classify_noRegister hp hin hnone, if_pos h]

theorem decodeBus_unmapped (hblk : blk ∈ [Blk.usart, .i2c, .spi]) (hin : off.toNat < 0x400)
    (haligned : off.toNat % szBytes sz.code = 0) (h : ∀ r : Reg, r.blk = blk → (p.layout.of r).off ≠ off) :
    decodeBus p (command we sz blk off :: rest) = .error .unmappedOffset := by
  have hiser : blk ≠ .nvicIser := fun heq => absurd (heq ▸ hblk) (by decide)
  have hipr : blk ≠ .nvicIpr := fun heq => absurd (heq ▸ hblk) (by decide)
  rw [decodeBus_of_noAccess (fun r hr hoff => absurd hoff (h r hr)) (fun heq => absurd heq hiser)
    fun heq => absurd heq hipr, classify_noRegister hp (hin.trans_eq (Blk.size_peripheral _ hblk).symm)
    (regAt_eq_none hblk h), if_neg (not_not.2 haligned)]

theorem decodeBus_iser_unmapped (hin : off.toNat < 4 * p.nIser) (hword : off.toNat % 4 ≠ 0)
    (haligned : off.toNat % szBytes sz.code = 0) :
    decodeBus p (command we sz .nvicIser off :: rest) = .error .unmappedOffset := by
  have hnone : regAt p Blk.nvicIser.code.toNat off.toNat = none := by
    rw [regAt_iser, if_neg fun hmapped => hword hmapped.2]
  rw [decodeBus_of_noAccess (fun q hblk => absurd (congrArg Blk.code hblk) q.blk_code_ne_nvic.1)
    (fun _ _ r hoff => hword (by rw [hoff, toNat_iserOff, Nat.mul_mod_right])) nofun,
    classify_noRegister hp hin hnone, if_neg (not_not.2 haligned)]

/-- An index past the last is refused, be it one that an NVIC row covers or an offset between two of them. -/
theorem decodeBus_nvic_index (hblk : blk = .nvicIser ∨ blk = .nvicIpr) (h : blk.size p ≤ off.toNat)
    (hlimit : off.toNat < blk.limit) :
    decodeBus p (command we sz blk off :: rest) = .error .indexOutOfRange := by
  have hform := commandForm_command we sz blk off
  by_cases hcovered : ∀ row ∈ busRows p.layout, row.covers (command we sz blk off) = false
  · rw [decodeBus_of_uncovered hform hcovered, classify_index h hlimit]
  simp only [not_forall, Bool.not_eq_false] at hcovered
  obtain ⟨row, hrow, hcovers⟩ := hcovered
  rw [decodeBus_of_covered hp.layout hform hrow hcovers, if_pos]
  rw [busRows_eq, List.mem_append] at hrow
  rcases hrow with hrow | hrow
  · obtain ⟨r, hr, -⟩ := registerAccess_of_covers hrow hcovers
    obtain ⟨hiser, hipr⟩ := r.blk_code_ne_nvic
    rw [hr] at hiser hipr
    exact (hblk.elim (fun heq => hiser (congrArg _ heq)) fun heq => hipr (congrArg _ heq)).elim
  · rcases nvicAccess_of_covers row hrow hcovers with ⟨rfl, -, r, rfl, hwf⟩ | ⟨rfl, -, n, rfl, hwf⟩
    · have hpast : 4 * p.nIser ≤ (iserOff r).toNat := h
      rw [toNat_iserOff] at hpast
      rw [hwf, decide_eq_false (by omega)]
    · have hpast : p.nLines ≤ (iprOff n).toNat := h
      rw [toNat_iprOff] at hpast
      rw [hwf, decide_eq_false (by omega)]

theorem decodeBus_outside (h : blk.limit ≤ off.toNat) :
    decodeBus p (command we sz blk off :: rest) = .error .outsideBlock := by
  have hsize := blk.size_le_limit hp
  rw [decodeBus_of_noAccess (fun r hblk hoff => ?_) (fun hblk _ r hoff => ?_) (fun hblk _ n hoff => ?_),
    classify_outside h]
  · obtain rfl := hblk
    have hin := hp.layout.inWindow r
    rw [hoff, ← Blk.size_peripheral (p := p) _ r.blk_peripheral] at hin
    omega
  · rw [hblk, hoff, toNat_iserOff] at h
    exact absurd (show 0x40 ≤ 4 * r.toNat from h) (by have := r.isLt; omega)
  · rw [hblk, hoff, toNat_iprOff] at h
    exact absurd (show 0x200 ≤ n.toNat from h) (by have := n.isLt; omega)

end Classes

/-- A reserved block code (R101). -/
theorem decodeBus_reservedBlock {cmd : Word} (hform : CommandForm cmd) (h : 5 ≤ (cmdBlk cmd).toNat) :
    decodeBus p (cmd :: rest) = .error .outsideBlock := by
  have hcode (blk : Blk) : cmdBlk cmd ≠ blk.code := fun heq => blk.code_lt (heq ▸ h)
  rw [decodeBus_of_uncovered hform, classify, if_pos h]
  refine fun row hrow => Bool.eq_false_iff.2 fun hcovers => ?_
  rw [busRows_eq, List.mem_append] at hrow
  rcases hrow with hrow | hrow
  · obtain ⟨r, hr⟩ := cmdBlk_of_registerRow hrow hcovers
    exact hcode r.blk hr
  · exact (cmdBlk_of_nvicRow hrow hcovers).elim (hcode _) (hcode _)

/-- Settles O4: a class of command words at a time, by the rows that cover it, if any, and the register at its
offset. -/
theorem refusedCommandWords : Obligations.RefusedCommandWords := by
  unfold Obligations.RefusedCommandWords
  refine ⟨fun p hp we sz rest => ⟨fun r => ⟨fun hwe hreadOnly => ?_, fun hnot hwidth => ?_⟩,
    fun r => decodeBus_iser_width hp, fun n => decodeBus_ipr_width hp, fun blk off => decodeBus_misaligned hp,
    fun blk off => decodeBus_unmapped hp, fun off => decodeBus_iser_unmapped hp,
    fun off => decodeBus_nvic_index hp (.inl rfl), fun off => decodeBus_nvic_index hp (.inr rfl),
    fun blk off => decodeBus_outside hp, fun cmd hzero hsz => decodeBus_reservedBlock ⟨hzero, hsz⟩⟩, fun rest => ?_⟩
  · rw [decodeBus_register_refused hp r fun hmem => (mem_registerAccesses_iff.1 hmem).1 ⟨hwe, hreadOnly⟩,
      if_pos (by rw [hwe, hreadOnly, Bool.and_self])]
  · rw [decodeBus_register_refused hp r fun hmem => hwidth (mem_registerAccesses_iff.1 hmem).2,
      if_neg (by rwa [Bool.and_eq_true])]
  · simp only [List.forall_mem_cons]
    exact ⟨⟨rfl, rfl, rfl, rfl, rfl, nofun⟩, ⟨rfl, rfl, rfl, nofun⟩, rfl,
      ⟨rfl, rfl, rfl, rfl, rfl, rfl, rfl, rfl, rfl, rfl, rfl, nofun⟩, rfl, rfl, nofun⟩

end Sys2Proof
end

section
/-! PROOF. What a step of a run does to the block, and that a fair run ends what its agents bring to an end
(00_scope.md R10); an address phase among it (42_i2c.md section 2). -/

namespace Sys2Proof.Machine

/-! ### A step of a run -/

/-- A step of a run is the reset step or an operation, but for what HOST still has to issue. -/
theorem Moved.cases {s t : State} {o : Option Instr} (h : Moved s o t) : (o = none ∧ SameBlock (resetStep s) t) ∨
    ∃ i m u, o = some i ∧ SameBlock s m ∧ exec i m = .next u ∧ SameBlock u t := by
  obtain ⟨u, more, rfl, hmove⟩ := h
  cases o with
  | none => exact .inl ⟨rfl, hmove ▸ ⟨rfl, rfl, rfl, rfl, rfl⟩⟩
  | some i =>
    obtain ⟨rest, -, hx⟩ | ⟨-, -, hx⟩ := hmove
    · exact .inr ⟨i, { s with hostStream := rest }, u, rfl, ⟨rfl, rfl, rfl, rfl, rfl⟩, hx, ⟨rfl, rfl, rfl, rfl, rfl⟩⟩
    · exact .inr ⟨i, s, u, rfl, ⟨rfl, rfl, rfl, rfl, rfl⟩, hx, ⟨rfl, rfl, rfl, rfl, rfl⟩⟩

variable {σ : Nat → State} {op : Nat → Option Instr}

/-- In a fair run no rank can be kept for ever by every step but those of an agent that stays enabled, and lowered by
its steps; which agent it is may change when the rank does. -/
theorem WeaklyFair.not_forever (hfair : WeaklyFair σ op) {agent : State → AgentStep} {rank : State → Nat} {n : Nat}
    (henabled : ∀ m, n ≤ m → (agent (σ m)).enabled (σ m) = true)
    (hmove : ∀ m, n ≤ m → rank (σ (m + 1)) < rank (σ m) ∨
      rank (σ (m + 1)) = rank (σ m) ∧ agent (σ (m + 1)) = agent (σ m) ∧
        (op m).bind agentStep ≠ some (agent (σ m))) : False := by
  induction hr : rank (σ n) using Nat.strong_induction_on generalizing n with
  | _ r ih =>
    have restart {m : Nat} (hm : n ≤ m) (hlower : rank (σ m) < r) : False :=
      ih _ hlower (fun k hk => henabled k (hm.trans hk)) (fun k hk => hmove k (hm.trans hk)) rfl
    have hkept (m : Nat) (hm : n ≤ m) : rank (σ m) = r ∧ agent (σ m) = agent (σ n) := by
      induction m, hm using Nat.le_induction with
      | base => exact ⟨hr, rfl⟩
      | succ m hm hold =>
        obtain ⟨hrank, hagent⟩ := hold
        obtain hlower | ⟨hsame, hagent', -⟩ := hmove m hm
        · exact (restart (Nat.le_succ_of_le hm) (hrank ▸ hlower)).elim
        · exact ⟨hsame.trans hrank, hagent'.trans hagent⟩
    obtain ⟨m, hm, hran⟩ := hfair (agent (σ n)) n fun m hm => (hkept m hm).2 ▸ henabled m hm
    obtain hlower | ⟨-, -, hidle⟩ := hmove m hm
    · exact restart (Nat.le_succ_of_le hm) ((hkept m hm).1 ▸ hlower)
    · exact hidle ((hkept m hm).2 ▸ hran)

/-! ### An address phase (R209, R210) -/

theorem eq_evI2cAddr_of_agentStep {i : Instr} (h : agentStep i = some .i2cAddr) :
    ∃ ack lost, i = .evI2cAddr ack lost := by
  cases i with
  | evI2cAddr ack lost => exact ⟨ack, lost, rfl⟩
  | _ => exact nomatch h

open I2c in
/-- While PE = 1 an address phase goes on until its own event. -/
theorem I2cMove.phase_addr {l : Layout} {i : Instr} {c c' : I2c} (h : I2cMove l i c c') (hphase : c.phase = .addr)
    (hpe' : c'.pe = true) : c'.phase = .addr ∨ ∃ ack lost, i = .evI2cAddr ack lost := by
  have other {P : Prop} {q : Phase} (hq : c.phase = q) (hne : q ≠ .addr) : P := absurd (hq.symm.trans hphase) hne
  cases h with
  | same h => exact .inl (h ▸ hphase)
  | writeCr1 hwrite =>
    obtain rfl := (writeCr1_next _ _ _).1 hwrite
    split at hpe'
    · next hon => exact .inl (by rw [if_pos hon]; exact hphase)
    · exact nomatch hpe'
  | writeCr2 hwrite =>
    obtain ⟨-, -, rfl⟩ := (writeCr2_next _ _ _).1 hwrite
    exact .inl hphase
  | writeTimingr hwrite =>
    obtain ⟨-, rfl⟩ := (writeTimingr_next _ _ _).1 hwrite
    exact .inl hphase
  | writeIcr hwrite =>
    obtain rfl := (writeIcr_next _ _ _).1 hwrite
    exact .inl hphase
  | writeTxdr hwrite =>
    obtain ⟨-, rfl⟩ := (writeTxdr_next _ _ _).1 hwrite
    left
    split
    · exact (settle_phase _).trans hphase
    · exact hphase
  | takeRxdr h =>
    left
    rw [h, I2c.takeRxdr]
    split
    · exact (settle_phase _).trans hphase
    · exact hphase
  | start he _ =>
    obtain ⟨-, hrest⟩ := Bool.and_eq_true_iff.1 he
    simp [hphase] at hrest
  | @addr _ _ ack lost _ _ => exact .inr ⟨ack, lost, rfl⟩
  | txByte he _ => exact other (of_decide_eq_true (Bool.and_eq_true_iff.1 he).1) nofun
  | rxByte he _ => exact other (of_decide_eq_true (Bool.and_eq_true_iff.1 he).1) nofun
  | stop he _ =>
    obtain hq | hq | hq := of_decide_eq_true (Bool.and_eq_true_iff.1 he).2 <;> exact other hq nofun
  | busFree hq _ => exact other hq nofun

/-- A fair run with PE = 1 held ends an address phase, and its event clears START. -/
theorem addressPhase_ends (hrun : Run σ op) (hfair : WeaklyFair σ op) {n : Nat}
    (hpe : ∀ m, n ≤ m → (σ m).i2c.pe = true) (hphase : (σ n).i2c.phase = .addr) :
    ∃ m ack lost, n ≤ m ∧ op m = some (.evI2cAddr ack lost) ∧ I2cCr2.start (σ (m + 1)).i2c.cr2 = false := by
  have hstep {m : Nat} (hm : n ≤ m) : ∃ i s u, op m = some i ∧ SameBlock (σ m) s ∧ exec i s = .next u ∧
      SameBlock u (σ (m + 1)) := (hrun.moved m).cases.resolve_left fun ⟨_, hreset⟩ =>
    nomatch (hpe (m + 1) (Nat.le_succ_of_le hm)).symm.trans (congrArg I2c.pe hreset.i2c)
  by_contra hnever
  have hstays (m : Nat) (hm : n ≤ m) : (σ m).i2c.phase = .addr ∧ ∀ ack lost, op m ≠ some (.evI2cAddr ack lost) := by
    have hnot {m : Nat} (hm : n ≤ m) (hat : (σ m).i2c.phase = .addr) (ack lost : Bool) :
        op m ≠ some (.evI2cAddr ack lost) := by
      intro hop
      obtain ⟨i, s, u, hop', hs, hx, hu⟩ := hstep hm
      obtain rfl : i = .evI2cAddr ack lost := Option.some.inj (hop'.symm.trans hop)
      rw [exec_evI2cAddr (by rw [hs.i2c]; exact hat), next_inj] at hx
      refine hnever ⟨m, ack, lost, hm, hop, ?_⟩
      rw [hu.i2c, ← hx]
      exact (congrArg I2cCr2.start (I2c.sAddr_cr2 _ _ _)).trans (I2c.start_clearStart _)
    induction m, hm using Nat.le_induction with
    | base => exact ⟨hphase, hnot le_rfl hphase⟩
    | succ m hm ih =>
      obtain ⟨hat, hother⟩ := ih
      obtain ⟨i, s, u, hop, hs, hx, hu⟩ := hstep hm
      have hpe' : u.i2c.pe = true := hu.i2c ▸ hpe (m + 1) (Nat.le_succ_of_le hm)
      have hnext : (σ (m + 1)).i2c.phase = .addr := by
        obtain hnext | ⟨ack, lost, rfl⟩ := (exec_i2cMove hx).phase_addr (by rw [hs.i2c]; exact hat) hpe'
        · rw [hu.i2c]
          exact hnext
        · exact absurd hop (hother ack lost)
      exact ⟨hnext, hnot (Nat.le_succ_of_le hm) hnext⟩
  obtain ⟨m, hm, hran⟩ := hfair .i2cAddr n fun m hm => decide_eq_true (hstays m hm).1
  obtain ⟨i, hop, hagent⟩ := Option.bind_eq_some_iff.1 hran
  obtain ⟨ack, lost, rfl⟩ := eq_evI2cAddr_of_agentStep hagent
  exact (hstays m hm).2 ack lost hop

end Sys2Proof.Machine
end

section
/-! PROOF. With UE = TE = 1 held, the USART's own steps bring a transmitter to the end of what it has to send
(41_usart.md section 7): the ticks to go, and between two ticks the cycles to the next. -/

namespace Sys2Proof.Machine

namespace Usart

variable {u u' : Usart} {l : Layout} {i : Instr}

/-- What is to go of a transmission: ticks, and then cycles of the generator to the next tick. -/
def drainRank (u : Usart) : Nat := u.ticksLeft * (u.div + 1) + (u.div - u.brgAcc)

/-- The ticks to go are told by the transmitter, TXE and the guarded fields. -/
theorem GuardedSame.ticksLeft_eq (h : GuardedSame u u') (htx : u'.tx = u.tx) (htxe : u'.isr.txe = u.isr.txe) :
    u'.ticksLeft = u.ticksLeft := by
  have hleft : u'.txLeft = u.txLeft := by
    rw [txLeft, txLeft, waitingLeft, waitingLeft, nFrame, nFrame, nData, nData, nStop, nStop, UsartCr1.nData,
      UsartCr1.nData, UsartCr2.nStop, UsartCr2.nStop, h.m0, h.m1, h.stop, htx, htxe]
  rw [ticksLeft, ticksLeft, hleft, nOs, nOs, UsartCr1.nOs, UsartCr1.nOs, h.over8, htx]

theorem GuardedSame.div_eq (h : GuardedSame u u') : u'.div = u.div := by rw [div, div, h.brr, h.over8]

/-- While a character waits more than one tick is to go. -/
theorem one_lt_ticksLeft (h : u.TxCounts) (htxe : u.isr.txe = false) : 1 < u.ticksLeft := by
  by_contra hle
  have hframe : 2 * u.nOs ≤ u.nFrame * u.nOs := Nat.mul_le_mul_right _ (by have := u.nStop_pos; rw [nFrame]; omega)
  have hos := u.nOs_pos
  have hsent := txe_of_ticksLeft_lt h (by omega)
  exact nomatch htxe.symm.trans hsent

/-- What a step does to a transmitter with something to go: it keeps the rank or lowers it, and an agent's step lowers
it; and no more than one tick goes. -/
structure DrainsTo (i : Instr) (u u' : Usart) : Prop where
  rank : u'.drainRank < u.drainRank ∨ u'.drainRank = u.drainRank ∧ agentStep i ≠ some .usart
  left : u.ticksLeft ≤ u'.ticksLeft + 1
  draining : u'.Draining

/-- The accumulator is no part of what is to be sent. -/
theorem Draining.withAcc (h : u.Draining) {acc draws : Nat} (hacc : acc < u.div) :
    Draining { u with brgAcc := acc, draws := draws } := by
  obtain ⟨hinv, hue, hte, hwhole, hcomplete⟩ := h
  obtain ⟨hreg, htx, hrx⟩ := running_of_inv hinv
  exact ⟨Running.inv ⟨hreg, htx, hrx⟩ hue hacc, hue, hte, hwhole, hcomplete⟩

/-- A tick, whatever the accumulator has become. -/
theorem Draining.tick_drainsTo (h : u.Draining) (hleft : u.ticksLeft ≠ 0) {acc draws : Nat} (hacc : acc < u.div)
    (p : Bool) : DrainsTo i u ({ u with brgAcc := acc, draws := draws }.tick p) := by
  obtain ⟨hdraining, hticks⟩ := (h.withAcc (draws := draws) hacc).tick p
  obtain ⟨hcr1, -, hbrr, -, -, hacc', -⟩ := { u with brgAcc := acc, draws := draws }.tick_config p
  have hdiv : ({ u with brgAcc := acc, draws := draws }.tick p).div = u.div := by rw [div, div, hcr1, hbrr]
  have hticks' : ({ u with brgAcc := acc, draws := draws }.tick p).ticksLeft = u.ticksLeft - 1 := hticks
  refine ⟨.inl ?_, by omega, hdraining⟩
  obtain ⟨left, hsucc⟩ := Nat.exists_eq_succ_of_ne_zero hleft
  rw [drainRank, drainRank, hdiv, hticks', hsucc, Nat.succ_sub_one, Nat.succ_mul]
  omega

/-- A clock cycle counts, or makes a tick (R152). -/
theorem Draining.clock_drainsTo (h : u.Draining) (hleft : u.ticksLeft ≠ 0) : DrainsTo i u u.clock := by
  have hacc := h.inv.accBelowDivisor h.ue
  have hdiv := (h.inv.divisorValid h.ue).1
  rcases Nat.lt_or_ge (u.brgAcc + 16) u.div with hlt | hle
  · rw [clock_counts hlt]
    refine ⟨.inl ?_, Nat.le_succ _, h.withAcc (draws := u.draws) hlt⟩
    exact Nat.add_lt_add_left (show u.div - (u.brgAcc + 16) < u.div - u.brgAcc by omega) _
  · rw [clock_ticks hle]
    exact h.tick_drainsTo hleft (by omega) _

/-- What a step that is not the USART's own leaves of the transmitter while UE = TE = 1. -/
structure TxKept (i : Instr) (u u' : Usart) : Prop where
  tx : u'.tx = u.tx
  acc : u'.brgAcc = u.brgAcc
  torn : u'.torn = u.torn
  txe : u'.isr.txe = u.isr.txe ∨ (∃ v, i = .wrUsartTdr v) ∧ u'.isr.txe = false

end Usart

open Usart in
theorem UsartMove.txKept {l : Layout} {i : Instr} {u u' : Usart} (h : UsartMove l i u u')
    (hi : agentStep i ≠ some .usart) (hue' : UsartCr1.ue u'.cr1 = true) (hte' : UsartCr1.te u'.cr1 = true) :
    TxKept i u u' := by
  cases h with
  | same h => exact h ▸ ⟨rfl, rfl, rfl, .inl rfl⟩
  | @writeCr1 _ _ raw hwrite =>
    obtain ⟨-, -, -, rfl⟩ := writeCr1_accepted hwrite
    cases hue : UsartCr1.ue (fromBus l .usartCr1 raw)
    · rw [storeCr1_disabled hue] at hue'
      exact nomatch hue.symm.trans hue'
    · rw [storeCr1_enabled hue] at hte' ⊢
      have hquiet : stopsInFrame u (fromBus l .usartCr1 raw) = false := Bool.eq_false_iff.2 fun hstops => by
        obtain ⟨-, -, hte | hoff, -⟩ := stopsInFrame_eq_true_iff.1 hstops
        · exact nomatch hte.symm.trans hte'
        · exact nomatch hoff.symm.trans hue
      rw [checkStop_quiet hquiet]
      exact ⟨rfl, rfl, rfl, .inl rfl⟩
  | writeCr2 hwrite =>
    obtain ⟨-, -, rfl⟩ := (writeCr2_next _ _ _).1 hwrite
    exact ⟨rfl, rfl, rfl, .inl rfl⟩
  | writeBrr hwrite =>
    obtain ⟨-, rfl⟩ := (writeBrr_next _ _ _).1 hwrite
    exact ⟨rfl, rfl, rfl, .inl rfl⟩
  | writeRtor hwrite =>
    obtain rfl := (writeRtor_next _ _ _).1 hwrite
    exact ⟨rfl, rfl, rfl, .inl rfl⟩
  | writeIcr hwrite =>
    obtain rfl := (writeIcr_next _ _ _).1 hwrite
    exact ⟨rfl, rfl, rfl, .inl rfl⟩
  | @writeTdr _ _ raw hwrite =>
    obtain ⟨-, rfl⟩ := (writeTdr_next _ _ _).1 hwrite
    exact ⟨rfl, rfl, rfl, .inr ⟨⟨raw, rfl⟩, rfl⟩⟩
  | takeRdr h => exact h ▸ ⟨rfl, rfl, rfl, .inl rfl⟩
  | clock | tick => exact absurd rfl hi

theorem eq_usartEvent_of_agentStep {i : Instr} (h : agentStep i = some .usart) :
    i = .evUsartClk ∨ ∃ p, i = .evUsartTick p := by
  cases i with
  | evUsartClk => exact .inl rfl
  | evUsartTick p => exact .inr ⟨p, rfl⟩
  | _ => exact nomatch h

open Usart in
/-- Every operation that leaves UE = TE = 1 brings a transmitter on, or leaves it where it is; but HOST's next
character, where none waits. -/
theorem exec_drainsTo {i : Instr} {s t : State} (hx : exec i s = .next t) (h : s.usart.Draining)
    (hleft : s.usart.ticksLeft ≠ 0) (hue' : UsartCr1.ue t.usart.cr1 = true) (hte' : UsartCr1.te t.usart.cr1 = true)
    (hquiet : s.usart.isr.txe = false ∨ ∀ v, i ≠ .wrUsartTdr v) : DrainsTo i s.usart t.usart := by
  by_cases hi : agentStep i = some .usart
  · obtain rfl | ⟨p, rfl⟩ := eq_usartEvent_of_agentStep hi
    · rw [exec_evUsartClk h.ue, next_inj] at hx
      exact hx ▸ h.clock_drainsTo hleft
    · rw [exec_evUsartTick h.ue, next_inj] at hx
      exact hx ▸ h.tick_drainsTo hleft (h.inv.accBelowDivisor h.ue) p
  · have hmove := exec_usartMove hx
    have hguarded := hmove.guardedSame h.ue hue'
    obtain ⟨htx, hacc, htorn, hkept⟩ := hmove.txKept hi hue' hte'
    have htxe : t.usart.isr.txe = s.usart.isr.txe := by
      obtain hsame | ⟨⟨v, hv⟩, hfull⟩ := hkept
      · exact hsame
      · exact hfull.trans (hquiet.resolve_right fun hno => hno v hv).symm
    have hticks := hguarded.ticksLeft_eq htx htxe
    have hinv := hmove.keeps_inv h.inv
    refine ⟨.inr ⟨by rw [drainRank, drainRank, hticks, hguarded.div_eq, hacc], hi⟩, hticks ▸ Nat.le_succ _,
      hinv, hue', hte', htorn.trans h.whole, fun hzero => ?_⟩
    exact absurd (hticks.symm.trans ((ticksLeft_eq_zero_iff (txCounts_of_inv hinv)).2 hzero)) hleft

/-! ### A fair run -/

section Run

variable {σ : Nat → State} {op : Nat → Option Instr} {n : Nat}

open Usart

theorem Moved.drainsTo {s t : State} {o : Option Instr} (hmove : Moved s o t) (h : s.usart.Draining)
    (hleft : s.usart.ticksLeft ≠ 0) (hheld : UsartCr1.ue t.usart.cr1 = true ∧ UsartCr1.te t.usart.cr1 = true)
    (hquiet : s.usart.isr.txe = false ∨ ∀ v, o ≠ some (.wrUsartTdr v)) :
    ∃ i, o = some i ∧ DrainsTo i s.usart t.usart := by
  obtain ⟨hue', hte'⟩ := hheld
  obtain ⟨-, hreset⟩ | ⟨i, m, u, rfl, hs, hx, hu⟩ := hmove.cases
  · rw [hreset.usart, usart_off_after_reset] at hue'
    exact nomatch hue'
  · rw [hu.usart] at hue' hte' ⊢
    rw [← hs.usart] at h hleft hquiet ⊢
    exact ⟨i, rfl, exec_drainsTo hx h hleft hue' hte' (hquiet.imp_right fun hno v hv => hno v (congrArg some hv))⟩

variable (hrun : Run σ op) (hfair : WeaklyFair σ op)
  (hheld : ∀ m, n ≤ m → UsartCr1.ue (σ m).usart.cr1 = true ∧ UsartCr1.te (σ m).usart.cr1 = true)
include hrun hfair hheld

/-- A transmitter does not go on for ever with something to go. -/
theorem not_draining_forever (hall : ∀ m, n ≤ m → (σ m).usart.Draining ∧ (σ m).usart.ticksLeft ≠ 0)
    (hquiet : ∀ m, n ≤ m → (σ m).usart.isr.txe = false ∨ ∀ v, op m ≠ some (.wrUsartTdr v)) : False := by
  refine hfair.not_forever (agent := fun _ => .usart) (rank := fun s => s.usart.drainRank) (n := n)
    (fun m hm => (hheld m hm).1) fun m hm => ?_
  obtain ⟨hdraining, hleft⟩ := hall m hm
  obtain ⟨i, hop, hdrains⟩ := (hrun.moved m).drainsTo hdraining hleft (hheld _ (Nat.le_succ_of_le hm)) (hquiet m hm)
  refine hdrains.rank.imp_right fun ⟨hsame, hother⟩ => ⟨hsame, rfl, ?_⟩
  rw [hop]
  exact hother

/-- A waiting character leaves TDR, and is then to be sent. -/
theorem waiting_leaves (hdraining : (σ n).usart.Draining) (htxe : (σ n).usart.isr.txe = false) :
    ∃ m, n ≤ m ∧ (σ m).usart.isr.txe = true ∧ (σ m).usart.Draining ∧ (σ m).usart.ticksLeft ≠ 0 := by
  by_contra hnever
  have hleft {m : Nat} (h : (σ m).usart.Draining) (hwaits : (σ m).usart.isr.txe = false) :
      1 < (σ m).usart.ticksLeft := one_lt_ticksLeft (txCounts_of_inv h.inv) hwaits
  have hwaits (m : Nat) (hm : n ≤ m) : (σ m).usart.Draining ∧ (σ m).usart.isr.txe = false := by
    induction m, hm using Nat.le_induction with
    | base => exact ⟨hdraining, htxe⟩
    | succ m hm ih =>
      obtain ⟨hdraining, htxe⟩ := ih
      have hone := hleft hdraining htxe
      obtain ⟨i, -, -, hless, hdraining'⟩ := (hrun.moved m).drainsTo hdraining (by omega)
        (hheld _ (Nat.le_succ_of_le hm)) (.inl htxe)
      refine ⟨hdraining', Bool.eq_false_iff.2 fun hsent => hnever ?_⟩
      exact ⟨m + 1, Nat.le_succ_of_le hm, hsent, hdraining', by omega⟩
  refine not_draining_forever hrun hfair hheld (fun m hm => ?_) fun m hm => .inl (hwaits m hm).2
  obtain ⟨hdraining, htxe⟩ := hwaits m hm
  exact ⟨hdraining, Nat.ne_of_gt (Nat.lt_of_succ_lt (hleft hdraining htxe))⟩

/-- When HOST writes no more to TDR, transmission completes. -/
theorem transmission_completes (hdraining : (σ n).usart.Draining) (hleft : (σ n).usart.ticksLeft ≠ 0)
    (hquiet : ∀ m, n ≤ m → ∀ v, op m ≠ some (.wrUsartTdr v)) : ∃ m, n ≤ m ∧ (σ m).usart.isr.tc = true := by
  by_contra hnever
  refine not_draining_forever hrun hfair hheld (fun m hm => ?_) fun m hm => .inr (hquiet m hm)
  induction m, hm using Nat.le_induction with
  | base => exact ⟨hdraining, hleft⟩
  | succ m hm ih =>
    obtain ⟨hdraining, hleft⟩ := ih
    obtain ⟨i, -, -, -, hdraining'⟩ := (hrun.moved m).drainsTo hdraining hleft (hheld _ (Nat.le_succ_of_le hm))
      (.inr (hquiet m hm))
    refine ⟨hdraining', fun hzero => hnever ⟨m + 1, Nat.le_succ_of_le hm, hdraining'.complete ?_⟩⟩
    exact (ticksLeft_eq_zero_iff (txCounts_of_inv hdraining'.inv)).1 hzero

end Run

end Sys2Proof.Machine
end

section
/-! PROOF. With SPE = MSTR = 1 held, the shifter's steps empty the transmit FIFO (43_spi.md section 3): the bytes to
load, and the bits to shift of the frame under way. With that, what every fair run brings. -/

namespace Sys2Proof.Machine

namespace Spi

variable {p p' : Spi} {l : Layout} {i : Instr}

/-- What is to be sent: more than the bits of a frame for each byte that waits, and the bits of the frame under
way. -/
def sendRank (p : Spi) : Nat := p.txf.length * 18 + if p.sh.busy then 17 - p.sh.cnt else 0

/-- The agent whose step carries on what is to be sent. -/
def sender (p : Spi) : AgentStep := if p.sh.busy then .spiBit else .spiLoad

/-- A running master that is not torn. -/
structure Sending (p : Spi) : Prop where
  inv : SpiInv p
  spe : SpiCr1.spe p.cr1 = true
  mstr : SpiCr1.mstr p.cr1 = true
  whole : p.torn = false

theorem sLoad_sendRank (h : p.loadEnabled = true) : p.sLoad.sendRank < p.sendRank := by
  simp only [loadEnabled, Bool.and_eq_true, Bool.not_eq_true', decide_eq_true_eq] at h
  obtain ⟨⟨-, hidle⟩, hfull⟩ := h
  have hpos : 0 < p.frameBytes := by obtain h | h := p.frameBytes_cases <;> omega
  have hlength : p.sLoad.txf.length = p.txf.length - p.frameBytes := List.length_drop
  have hnew : p.sLoad.sendRank = p.sLoad.txf.length * 18 + 17 := rfl
  rw [hnew, hlength, sendRank, hidle, if_neg Bool.false_ne_true]
  omega

theorem sBit_sendRank (h : p.Sending) (he : p.bitEnabled = true) (miso : Bool) :
    (p.sBit miso).sendRank < p.sendRank := by
  obtain ⟨-, hbusy⟩ := Bool.and_eq_true_iff.1 he
  have hcnt := h.inv.cntInFrame h.whole hbusy
  have hwidth := p.frameBits_le
  have hold : p.sendRank = p.txf.length * 18 + (17 - p.sh.cnt) := by rw [sendRank, if_pos hbusy]
  rcases Nat.lt_or_ge (p.sh.cnt + 1) p.frameBits with hnext | hlast
  · have hnew : (p.sBit miso).sendRank = p.txf.length * 18 + (17 - (p.sh.cnt + 1)) := by
      rw [sBit_next hnext]
      exact congrArg (_ + ·) (if_pos hbusy)
    omega
  · have hnew : (p.sBit miso).sendRank = p.txf.length * 18 := by
      rw [sBit_last hlast]
      rfl
    omega

/-- With something to send, its agent's step is enabled: a FIFO that is not empty holds a frame (R251). -/
theorem sender_enabled {s : State} (h : s.spi.Sending) (hsome : ¬(s.spi.txf = [] ∧ s.spi.bsy = false)) :
    s.spi.sender.enabled s = true := by
  obtain ⟨hinv, hspe, hmstr, -⟩ := h
  cases hbusy : s.spi.sh.busy
  · have hne : s.spi.txf ≠ [] := fun hempty => hsome ⟨hempty, by simp [bsy, underWay, hbusy, hempty]⟩
    have hpos := List.length_pos_of_ne_nil hne
    have hframe : s.spi.frameBytes ≤ s.spi.txf.length := by
      obtain hone | htwo := s.spi.frameBytes_cases
      · omega
      · have := (hinv.wideFrames htwo).1
        omega
    simp [sender, AgentStep.enabled, loadEnabled, running, hspe, hmstr, hbusy, hframe]
  · simp [sender, AgentStep.enabled, bitEnabled, hspe, hbusy]

end Spi

open Spi in
/-- Every move that leaves SPE = 1 lowers what is to be sent or leaves it, but a push of HOST's. -/
theorem SpiMove.sends {l : Layout} {i : Instr} {p p' : Spi} (hmove : SpiMove l i p p') (h : p.Sending)
    (hspe' : SpiCr1.spe p'.cr1 = true) (hquiet : (∀ v, i ≠ .wr8SpiDr v) ∧ ∀ v, i ≠ .wr16SpiDr v) :
    p'.torn = false ∧ (p'.sendRank < p.sendRank ∨ p'.txf = p.txf ∧ p'.sh = p.sh) := by
  have hwhole := h.whole
  cases hmove with
  | same h' =>
    rw [h']
    exact ⟨hwhole, .inr ⟨rfl, rfl⟩⟩
  | @writeCr1 _ _ raw hwrite =>
    obtain ⟨-, -, -, rfl⟩ := (writeCr1_next _ _ _).1 hwrite
    have hnew : SpiCr1.spe (fromBus l .spiCr1 raw) = true := hspe'
    rw [if_neg (by simp [hnew])]
    exact ⟨hwhole, .inr ⟨rfl, rfl⟩⟩
  | writeCr2 hwrite =>
    obtain ⟨-, -, rfl⟩ := (writeCr2_next _ _ _).1 hwrite
    exact ⟨hwhole, .inr ⟨rfl, rfl⟩⟩
  | readSr h' | pop8 _ h' | pop16 h' => exact h' ▸ ⟨hwhole, .inr ⟨rfl, rfl⟩⟩
  | @push8 _ _ v _ => exact absurd rfl (hquiet.1 v)
  | @push16 _ _ v _ => exact absurd rfl (hquiet.2 v)
  | load he h' => exact h' ▸ ⟨hwhole, .inl (sLoad_sendRank he)⟩
  | bit he h' => exact h' ▸ ⟨(congrArg torn (sBit_frame p _)).trans hwhole, .inl (sBit_sendRank h he _)⟩
  | @modf _ _ nssIn _ h' =>
    rw [h', sModf] at hspe' ⊢
    split at hspe'
    · next hnss =>
      rw [if_pos hnss]
      exact ⟨hwhole, .inr ⟨rfl, rfl⟩⟩
    · simp [SpiCr1.spe, SpiCr1.speBit, SpiCr1.mstrBit] at hspe'

theorem eq_spiEvent_of_agentStep {i : Instr} : (agentStep i = some .spiLoad → i = .evSpiLoad) ∧
    (agentStep i = some .spiBit → ∃ miso, i = .evSpiBit miso) := by
  constructor
  · intro h
    cases i with
    | evSpiLoad => rfl
    | _ => exact nomatch h
  · intro h
    cases i with
    | evSpiBit miso => exact ⟨miso, rfl⟩
    | _ => exact nomatch h

open Spi in
/-- The step of the agent whose turn it is lowers what is to be sent. -/
theorem exec_sender {i : Instr} {s t : State} (hx : exec i s = .next t) (h : s.spi.Sending)
    (he : s.spi.sender.enabled s = true) (hi : agentStep i = some s.spi.sender) :
    t.spi.sendRank < s.spi.sendRank := by
  rw [sender] at he hi
  split at he
  · next hbusy =>
    rw [if_pos hbusy] at hi
    obtain ⟨miso, rfl⟩ := eq_spiEvent_of_agentStep.2 hi
    rw [exec_evSpiBit (by exact he), next_inj] at hx
    exact hx ▸ sBit_sendRank h he miso
  · next hidle =>
    rw [if_neg hidle] at hi
    obtain rfl := eq_spiEvent_of_agentStep.1 hi
    rw [exec_evSpiLoad (by exact he), next_inj] at hx
    exact hx ▸ sLoad_sendRank he

/-! ### A fair run -/

open Spi in
/-- What a step of a run with SPE = MSTR = 1 held does to a shifter with something to send. -/
theorem Moved.sends {s t : State} {o : Option Instr} (hmove : Moved s o t) (h : s.spi.Sending)
    (he : s.spi.sender.enabled s = true) (hheld : SpiCr1.spe t.spi.cr1 = true ∧ SpiCr1.mstr t.spi.cr1 = true)
    (hquiet : (∀ v, o ≠ some (.wr8SpiDr v)) ∧ ∀ v, o ≠ some (.wr16SpiDr v)) :
    t.spi.Sending ∧ (t.spi.sendRank < s.spi.sendRank ∨ t.spi.sendRank = s.spi.sendRank ∧
      t.spi.sender = s.spi.sender ∧ o.bind agentStep ≠ some s.spi.sender) := by
  obtain ⟨hspe', hmstr'⟩ := hheld
  obtain ⟨-, hreset⟩ | ⟨i, m, u, rfl, hs, hx, hu⟩ := hmove.cases
  · rw [hreset.spi, spi_off_after_reset] at hspe'
    exact nomatch hspe'
  have he' : m.spi.sender.enabled m = true := by
    rw [sender, hs.spi]
    rw [sender] at he
    split at he
    · next hbusy => rw [if_pos hbusy]; exact (congrArg bitEnabled hs.spi).trans he
    · next hidle => rw [if_neg hidle]; exact (congrArg loadEnabled hs.spi).trans he
  rw [hu.spi] at hspe' hmstr' ⊢
  rw [← hs.spi] at h ⊢
  have hmove := exec_spiMove hx
  obtain ⟨htorn, hsend⟩ := hmove.sends h hspe' ⟨fun v hv => hquiet.1 v (congrArg some hv),
    fun v hv => hquiet.2 v (congrArg some hv)⟩
  refine ⟨⟨hmove.keeps_inv h.inv, hspe', hmstr', htorn⟩, ?_⟩
  by_cases hi : agentStep i = some m.spi.sender
  · exact .inl (exec_sender hx h he' hi)
  · exact hsend.imp_right fun ⟨htxf, hsh⟩ => ⟨by rw [sendRank, sendRank, htxf, hsh], by rw [sender, sender, hsh], hi⟩

open Spi in
/-- A fair run with SPE = MSTR = 1 held in which HOST pushes no more empties the transmit FIFO and the shifter. -/
theorem shifter_runs_empty {σ : Nat → State} {op : Nat → Option Instr} (hrun : Run σ op) (hfair : WeaklyFair σ op)
    {n : Nat} (hheld : ∀ m, n ≤ m → SpiCr1.spe (σ m).spi.cr1 = true ∧ SpiCr1.mstr (σ m).spi.cr1 = true)
    (hinv : SpiInv (σ n).spi) (hwhole : (σ n).spi.torn = false)
    (hquiet : ∀ m, n ≤ m → (∀ v, op m ≠ some (.wr8SpiDr v)) ∧ ∀ v, op m ≠ some (.wr16SpiDr v)) :
    ∃ m, n ≤ m ∧ (σ m).spi.txf = [] ∧ (σ m).spi.bsy = false := by
  by_contra hnever
  have henabled {m : Nat} (hm : n ≤ m) (h : (σ m).spi.Sending) : (σ m).spi.sender.enabled (σ m) = true :=
    sender_enabled h fun hdone => hnever ⟨m, hm, hdone⟩
  have hsending (m : Nat) (hm : n ≤ m) : (σ m).spi.Sending := by
    induction m, hm using Nat.le_induction with
    | base => exact ⟨hinv, (hheld n le_rfl).1, (hheld n le_rfl).2, hwhole⟩
    | succ m hm ih =>
      exact ((hrun.moved m).sends ih (henabled hm ih) (hheld _ (Nat.le_succ_of_le hm)) (hquiet m hm)).1
  exact hfair.not_forever (agent := fun s => s.spi.sender) (rank := fun s => s.spi.sendRank)
    (fun m hm => henabled hm (hsending m hm)) fun m hm =>
      ((hrun.moved m).sends (hsending m hm) (henabled hm (hsending m hm)) (hheld _ (Nat.le_succ_of_le hm))
        (hquiet m hm)).2

/-- Settles O24: what each agent brings to an end has a rank that every step keeps and the agent's own steps lower, so
a fair run cannot go on with it for ever. -/
theorem fairRunsProgress : Obligations.FairRunsProgress := by
  unfold Obligations.FairRunsProgress
  refine fun σ op hrun hfair n => ⟨fun hheld hinv hwhole htxe => ?_, addressPhase_ends hrun hfair,
    shifter_runs_empty hrun hfair⟩
  have hdraining : (σ n).usart.Draining :=
    .of_waiting hinv (hheld n le_rfl).1 (hheld n le_rfl).2 hwhole htxe
  obtain ⟨m, hm, hsent, hdraining', hleft⟩ := waiting_leaves hrun hfair hheld hdraining htxe
  exact ⟨m, hm, hsent, transmission_completes hrun hfair (fun k hk => hheld k (hm.trans hk)) hdraining' hleft⟩

end Sys2Proof.Machine
end
